-- ==== Sys2Proof/Word.lean ====
section
/-! DEFINITION. The widths of the manual's fields, positions, lines and notice causes, and the fixed-size families indexed by them. -/
namespace Sys2Proof

abbrev Byte := BitVec 8
abbrev W16 := BitVec 16
abbrev W32 := BitVec 32
abbrev W64 := BitVec 64

/-- A place in the chain, 1 to 6, counted from the head (R1, R2). Segment k, 2 to 6, is named by the position it leads to. -/
inductive Pos where
  | p1 | p2 | p3 | p4 | p5 | p6
deriving DecidableEq, Repr

/-- The six positions in chain order. -/
def Pos.all : List Pos := [.p1, .p2, .p3, .p4, .p5, .p6]

/-- The number of a position, 1 to 6. -/
def Pos.toNat : Pos → Nat
  | .p1 => 1 | .p2 => 2 | .p3 => 3 | .p4 => 4 | .p5 => 5 | .p6 => 6

/-- The position with a number, if it is 1 to 6. -/
def Pos.ofNat? : Nat → Option Pos
  | 1 => some .p1 | 2 => some .p2 | 3 => some .p3 | 4 => some .p4 | 5 => some .p5 | 6 => some .p6
  | _ => none

/-- The position behind, if there is one. -/
def Pos.next? : Pos → Option Pos
  | .p1 => some .p2 | .p2 => some .p3 | .p3 => some .p4 | .p4 => some .p5 | .p5 => some .p6 | .p6 => none

/-- The position ahead, if there is one. -/
def Pos.prev? : Pos → Option Pos
  | .p1 => none | .p2 => some .p1 | .p3 => some .p2 | .p4 => some .p3 | .p5 => some .p4 | .p6 => some .p5

/-- One thing for each of the six positions. -/
structure Per6 (α : Type) where
  p1 : α
  p2 : α
  p3 : α
  p4 : α
  p5 : α
  p6 : α
deriving DecidableEq, Repr

def Per6.get {α : Type} (v : Per6 α) : Pos → α
  | .p1 => v.p1 | .p2 => v.p2 | .p3 => v.p3 | .p4 => v.p4 | .p5 => v.p5 | .p6 => v.p6

def Per6.set {α : Type} (v : Per6 α) (k : Pos) (x : α) : Per6 α :=
  match k with
  | .p1 => { v with p1 := x } | .p2 => { v with p2 := x } | .p3 => { v with p3 := x }
  | .p4 => { v with p4 := x } | .p5 => { v with p5 := x } | .p6 => { v with p6 := x }

def Per6.modify {α : Type} (v : Per6 α) (k : Pos) (f : α → α) : Per6 α := v.set k (f (v.get k))

/-- The family given by a rule. -/
def Per6.ofFn {α : Type} (f : Pos → α) : Per6 α := ⟨f .p1, f .p2, f .p3, f .p4, f .p5, f .p6⟩

def Per6.const {α : Type} (x : α) : Per6 α := ⟨x, x, x, x, x, x⟩

/-- A side line, L0 to L3 (R168). -/
inductive Line where
  | l0 | l1 | l2 | l3
deriving DecidableEq, Repr

def Line.all : List Line := [.l0, .l1, .l2, .l3]

def Line.toNat : Line → Nat
  | .l0 => 0 | .l1 => 1 | .l2 => 2 | .l3 => 3

/-- One thing for each of the four lines. -/
structure Per4 (α : Type) where
  l0 : α
  l1 : α
  l2 : α
  l3 : α
deriving DecidableEq, Repr

def Per4.get {α : Type} (v : Per4 α) : Line → α
  | .l0 => v.l0 | .l1 => v.l1 | .l2 => v.l2 | .l3 => v.l3

def Per4.set {α : Type} (v : Per4 α) (n : Line) (x : α) : Per4 α :=
  match n with
  | .l0 => { v with l0 := x } | .l1 => { v with l1 := x } | .l2 => { v with l2 := x } | .l3 => { v with l3 := x }

def Per4.modify {α : Type} (v : Per4 α) (n : Line) (f : α → α) : Per4 α := v.set n (f (v.get n))

def Per4.ofFn {α : Type} (f : Line → α) : Per4 α := ⟨f .l0, f .l1, f .l2, f .l3⟩

def Per4.const {α : Type} (x : α) : Per4 α := ⟨x, x, x, x⟩

/-- The nine notice causes, in the order of the counters (R180). -/
inductive Cause where
  | dock | nodes | input | updates | applied | faults | contract | lines | errors
deriving DecidableEq, Repr

def Cause.all : List Cause :=
  [.dock, .nodes, .input, .updates, .applied, .faults, .contract, .lines, .errors]

def Cause.toNat : Cause → Nat
  | .dock => 0 | .nodes => 1 | .input => 2 | .updates => 3 | .applied => 4 | .faults => 5
  | .contract => 6 | .lines => 7 | .errors => 8

/-- One thing for each of the nine notice causes. -/
structure Per9 (α : Type) where
  dock : α
  nodes : α
  input : α
  updates : α
  applied : α
  faults : α
  contract : α
  lines : α
  errors : α
deriving DecidableEq, Repr

def Per9.get {α : Type} (v : Per9 α) : Cause → α
  | .dock => v.dock | .nodes => v.nodes | .input => v.input | .updates => v.updates
  | .applied => v.applied | .faults => v.faults | .contract => v.contract | .lines => v.lines
  | .errors => v.errors

def Per9.set {α : Type} (v : Per9 α) (c : Cause) (x : α) : Per9 α :=
  match c with
  | .dock => { v with dock := x } | .nodes => { v with nodes := x } | .input => { v with input := x }
  | .updates => { v with updates := x } | .applied => { v with applied := x }
  | .faults => { v with faults := x } | .contract => { v with contract := x }
  | .lines => { v with lines := x } | .errors => { v with errors := x }

def Per9.ofFn {α : Type} (f : Cause → α) : Per9 α :=
  ⟨f .dock, f .nodes, f .input, f .updates, f .applied, f .faults, f .contract, f .lines, f .errors⟩

def Per9.const {α : Type} (x : α) : Per9 α := ⟨x, x, x, x, x, x, x, x, x⟩

end Sys2Proof
end

