-- ==== Sys2Proof/Syntax.lean ====
section
/-! DEFINITION. The commands of the block: one constructor for each row of spec/opcode_table.json, with the data the step brings from outside. -/
namespace Sys2Proof

/-- The window an ANSWER arrives in: the answer window of a position, or the probe answer window (R22, R26). -/
inductive Window where
  | answer (k : Pos)
  | probe
deriving DecidableEq, Repr

/-- What a completed intent read returned (R107): a generation word, the fields of the global intent record (0208H to
022FH, byte 0 of the value is 0208H), or those of a node intent record (offsets 08H to 15H). -/
inductive IntentData where
  | generation (g : W32)
  | globalFields (d : BitVec 320)
  | nodeFields (d : BitVec 112)
deriving DecidableEq, Repr

/-- What a completed read at the update cursor returned (R139): the update first index, the 48 host-owned bytes of the
record at the cursor, or its next index. -/
inductive CursorData where
  | first (i : Byte)
  | record (d : BitVec 384)
  | next (i : Byte)
deriving DecidableEq, Repr

/-- What the host's write leaves in the function's configuration: MSI enable (R180), and beside it the bus-master enable
that R175 keeps with it and R179 tests (log 8). -/
structure FunctionSetup where
  msi : Bool
  busMaster : Bool
deriving DecidableEq, Repr

/-- The commands, in the order of the table. A step whose occasion does not hold when it is taken has no effect (log 1). -/
inductive Instr where
  | superframe
  | queueReoffer
  | answer (w : Window) (frame : Option (List Byte))
  | lossReport (k : Pos)
  | interruptionReport
  | errorWindowEnd
  | probeResult
  | resumeResult
  | readResult
  | setResult
  | segmentResult
  | supplyResult
  | commitResult
  | discardResult
  | statusBlockResult
  | releaseResult
  | releaseComplete
  | resumeTimer
  | lostExpiry (k : Pos)
  | discoveryStep
  | observationEnd
  | frontierTimer
  | settlingEnd
  | locateObservationEnd
  | dockSense (active : Bool)
  | senseRunReached
  | bringupProbe
  | noCradle
  | holdTick
  | holdOverExpiry
  | inputDrainEnd
  | releasedTimer
  | scan
  | intentReadComplete (d : IntentData)
  | rederive (k : Pos)
  | attentionStale (k : Pos)
  | lineDebounce (n : Line)
  | contractTimeout
  | braceEnd
  | cursorReadComplete (d : CursorData)
  | pixelReadComplete (tile : Option (BitVec 4096))
  | goBack
  | noProgress
  | outcomeWriteComplete
  | takenCountRead (t : W32)
  | journalEntryWrite
  | writeCountWrite
  | entrySectionWrite
  | appliedSectionWrite
  | faultTotalWrite
  | windowAccessGrant
  | windowStall
  | stallRetry
  | stallRetryComplete (version : Option W16)
  | enable
  | layoutVersionRead (version : Option W16)
  | startingComplete
  | disable
  | sequenceEnded
  | finalDrainEnd
  | reset
  | noticeOn (on : Bool)
  | noticeMask (on : Bool)
  | nudge (value : W32)
  | registerWrite (offset : BitVec 12) (value : W32)
  | powerOnReset
  | msiEnable (on : FunctionSetup)
deriving DecidableEq, Repr

end Sys2Proof
end

