-- ==== Sys2Proof/Config.lean ====
section
/-! DEFINITION. The values the manual leaves open. Each is a constant without a body: nothing can be proved of its value. -/
namespace Sys2Proof

/-- R109: the blocks take the fields of an accepted global record in either order. The n-th free choice says whether
the Session Controller compares the release serial before the Chain Manager compares its serials. -/
opaque Config.scTakesFirst : Nat → Bool

/-- R105, R108: a record whose minimum voltage is above its maximum voltage is refused; the manual does not say which of
the two is the refused field. -/
opaque Config.voltageOrderNamesMaximum : Bool

/-- R181 gives what a one-byte and a two-byte field hold while their value is absent; the four bytes of time entered LOST
are not covered. -/
opaque Config.absentLostStamp : W32

end Sys2Proof
end

