-- ==== Sys2Proof/Machine/Types.lean ====
section
/-! DEFINITION. The named values of the manual (R182) and the records the blocks keep and pass to each other. -/
namespace Sys2Proof.Machine

/-- R174. -/
inductive PartState where
  | disabled | starting | running | stopping
deriving DecidableEq, Repr

/-- R83. -/
inductive DockState where
  | undocked | detecting | bringup | docked | holding | releasing | released
deriving DecidableEq, Repr

/-- R2, section 1.2. -/
inductive EntryState where
  | vacant | probed | reading | configuring | active | failed | held | lost
deriving DecidableEq, Repr

/-- The states an entry can leave for HELD or LOST and return to: the values of the resume state (R2). -/
inductive Live where
  | probed | reading | configuring | active | failed
deriving DecidableEq, Repr

def Live.toState : Live → EntryState
  | .probed => .probed | .reading => .reading | .configuring => .configuring | .active => .active | .failed => .failed

def EntryState.live? : EntryState → Option Live
  | .probed => some .probed | .reading => some .reading | .configuring => some .configuring
  | .active => some .active | .failed => some .failed
  | .vacant => none | .held => none | .lost => none

/-- R2, R3. -/
inductive Kind where
  | unknown | cradle | keyboard | display | keystrip
deriving DecidableEq, Repr

/-- The downstream segment state of an entry (R2). -/
inductive SegState where
  | none | off | diag | on | fault
deriving DecidableEq, Repr

/-- R66. -/
inductive SenseCode where
  | clean | noLoad | openWire | crossed | shorted | posToChassis | negToBattery | negToChassis | posToBattery
deriving DecidableEq, Repr

/-- R80, R182. -/
inductive FaultCode where
  | none | openWire | crossed | shorted | posToChassis | negToBattery | negToChassis | posToBattery
  | silent | unlocated | notReproduced | noCradle | badDescriptor | badOrder | nodeLost | budgetShort | contractTimeout
deriving DecidableEq, Repr

inductive PlaceKind where
  | none | segment | position
deriving DecidableEq, Repr

/-- The results of a control message (R42). -/
inductive ResultCode where
  | done | refused | mismatch | busyTimeout | noReply | gone
deriving DecidableEq, Repr

inductive IndMode where
  | off | on | slow | fast
deriving DecidableEq, Repr

inductive DispMode where
  | on | blank | off
deriving DecidableEq, Repr

inductive Pattern where
  | short | long | triple
deriving DecidableEq, Repr

inductive LineRole where
  | input | output
deriving DecidableEq, Repr

inductive SegSetting where
  | off | on | diag
deriving DecidableEq, Repr

inductive UndockReason where
  | expired | released | otherDock
deriving DecidableEq, Repr

inductive AppliedResult where
  | pending | done | clipped | refused | nodeRefused
deriving DecidableEq, Repr

inductive UpdateOutcome where
  | none | done | withdrawn | failed
deriving DecidableEq, Repr

inductive UpdateReason where
  | none | noDisplay | badRect | badStride | sourceRead | noProgress | nodeGone | released
deriving DecidableEq, Repr

inductive CursorPhase where
  | at | taken | after
deriving DecidableEq, Repr

inductive ContractState where
  | none | requested | transition | active | base
deriving DecidableEq, Repr

inductive SupplyState where
  | base | transition | ready | dropped
deriving DecidableEq, Repr

inductive Preference where
  | mostPower | leastCurrent | highestVoltage
deriving DecidableEq, Repr

/-- R168. -/
inductive LineFn where
  | none | parked | moving | crank | release | dockedLamp | faultLamp | charging | negotiating
deriving DecidableEq, Repr

inductive LineResult where
  | none | placed | duplicate | unsupported | pending | nodeRefused
deriving DecidableEq, Repr

inductive StableLevel where
  | none | inactive | active
deriving DecidableEq, Repr

inductive LocateStep where
  | idle | settling | powering | observing | probing | bringingIn
deriving DecidableEq, Repr

inductive LocateResult where
  | none | localized | notReproduced | abandoned
deriving DecidableEq, Repr

/-- NONE, then the areas of R176 in order (R182). -/
inductive StallArea where
  | none | hostHeader | partHeader | globalIntent | globalState | nodeIntent | nodeState | faultLog | journal | updatePool
deriving DecidableEq, Repr

/-- The discovery states of R49. -/
inductive Discovery where
  | stopped | waiting | powering | observing | probing | complete | deferred | faulted | givenUp | shut | locating
deriving DecidableEq, Repr

/-- The journal kinds a marker or an input entry has (R129, R130). -/
inductive ItemKind where
  | key | dock | undock | nodeAdded | nodeRemoved | releaseAll | loss
deriving DecidableEq, Repr

/-- The five requesters of the window access arbiter, in its order (R177): Exchange Port, Chain Manager with Session
Controller, Intent Reconciler, Input Collector, Display Transfer Unit. -/
inductive Requester where
  | xp | cm | ir | ic | dtu
deriving DecidableEq, Repr

def Requester.all : List Requester := [.xp, .cm, .ir, .ic, .dtu]

/-- One value for each requester. -/
structure PerRequester (α : Type) where
  xp : α
  cm : α
  ir : α
  ic : α
  dtu : α
deriving DecidableEq, Repr

def PerRequester.const {α : Type} (x : α) : PerRequester α := ⟨x, x, x, x, x⟩

def PerRequester.get {α : Type} (v : PerRequester α) : Requester → α
  | .xp => v.xp | .cm => v.cm | .ir => v.ir | .ic => v.ic | .dtu => v.dtu

def PerRequester.set {α : Type} (v : PerRequester α) (r : Requester) (x : α) : PerRequester α :=
  match r with
  | .xp => { v with xp := x } | .cm => { v with cm := x } | .ir => { v with ir := x }
  | .ic => { v with ic := x } | .dtu => { v with dtu := x }

/-- The blocks that submit control messages. -/
inductive Block where
  | cm | sc | ir | dtu | pcu | slu
deriving DecidableEq, Repr

/-- An indicator, 0 to 7 (R104). -/
inductive Ind where
  | i0 | i1 | i2 | i3 | i4 | i5 | i6 | i7
deriving DecidableEq, Repr

def Ind.all : List Ind := [.i0, .i1, .i2, .i3, .i4, .i5, .i6, .i7]

def Ind.toNat : Ind → Nat
  | .i0 => 0 | .i1 => 1 | .i2 => 2 | .i3 => 3 | .i4 => 4 | .i5 => 5 | .i6 => 6 | .i7 => 7

structure Per8 (α : Type) where
  i0 : α
  i1 : α
  i2 : α
  i3 : α
  i4 : α
  i5 : α
  i6 : α
  i7 : α
deriving DecidableEq, Repr

def Per8.get {α : Type} (v : Per8 α) : Ind → α
  | .i0 => v.i0 | .i1 => v.i1 | .i2 => v.i2 | .i3 => v.i3
  | .i4 => v.i4 | .i5 => v.i5 | .i6 => v.i6 | .i7 => v.i7

def Per8.set {α : Type} (v : Per8 α) (n : Ind) (x : α) : Per8 α :=
  match n with
  | .i0 => { v with i0 := x } | .i1 => { v with i1 := x } | .i2 => { v with i2 := x } | .i3 => { v with i3 := x }
  | .i4 => { v with i4 := x } | .i5 => { v with i5 := x } | .i6 => { v with i6 := x } | .i7 => { v with i7 := x }

def Per8.ofFn {α : Type} (f : Ind → α) : Per8 α :=
  ⟨f .i0, f .i1, f .i2, f .i3, f .i4, f .i5, f .i6, f .i7⟩

def Per8.const {α : Type} (x : α) : Per8 α := ⟨x, x, x, x, x, x, x, x⟩

/-! ### The link's messages -/

/-- The setting items (R33, R182). -/
inductive ItemCode where
  | token | holdLimit | indicator | keyBacklight | displayBacklight | displayMode | attention | lineRole | lineLevel
deriving DecidableEq, Repr

/-- One item of a SET: name, index where it has one, value (R33, R185). -/
structure SetItem where
  item : ItemCode
  index : Byte
  value : W16
deriving DecidableEq, Repr

/-- What a SEGMENT of the Chain Manager is for: the step whose rule deals with its result. -/
inductive SegUse where
  /-- SEGMENT DIAG of a discovery step (R50, R51). -/
  | stepDiag
  /-- SEGMENT OFF at the end of the chain (R52, R78). -/
  | endOff
  /-- SEGMENT ON behind a new entry (R53, R78). -/
  | bringOn
  /-- SEGMENT OFF of a faulted segment (R53, R69, R70, R75, R78). -/
  | faultOff
  /-- SEGMENT OFF that shuts the chain (R72). -/
  | shutOff
  /-- SEGMENT OFF of locate step 1 (R77). -/
  | locateOff
  /-- SEGMENT DIAG of locate step 3 (R78). -/
  | locateDiag
deriving DecidableEq, Repr

/-- The ten kinds of control message with what each carries (R30 to R39). `serial` in READ and in the Chain Manager's
SET numbers the walk or configuring it belongs to, so that a result of an earlier one is told apart (R60). -/
inductive Payload where
  | probe
  | resume (session : W16)
  | read (offset : Byte) (serial : Nat)
  | set (items : List SetItem) (serial : Nat)
  | segment (setting : SegSetting) (use : SegUse)
  | supply (offer : Byte) (current : W16) (mismatch : Bool) (base : Bool)
  | commit (tag : Byte)
  | discard
  | statusBlock (block : W64)
  | release
deriving DecidableEq, Repr

/-- A message of a node control queue (R40). -/
structure Msg where
  sub : Block
  payload : Payload
  /-- sendings that got no valid reply -/
  attempts : Nat
  /-- the stamp of its first BUSY -/
  firstBusy : Option W32
  /-- the tag it took when it was first sent (R25); absent until then -/
  tag : Option (BitVec 4)
  /-- chosen in this superframe, its answer window still to come -/
  inFlight : Bool
  /-- withdrawn while in flight: it gets this superframe's result and then leaves (R43, R117, R169) -/
  withdrawn : Bool
deriving DecidableEq, Repr

/-- A message as its submitter makes it. -/
def Msg.new (sub : Block) (payload : Payload) : Msg :=
  { sub := sub, payload := payload, attempts := 0, firstBusy := none, tag := none, inFlight := false, withdrawn := false }

/-- A result on its way to the submitter (R42). -/
structure CtrlResult where
  pos : Pos
  sub : Block
  payload : Payload
  code : ResultCode
  data : List Byte
deriving DecidableEq, Repr

/-- What a submitter offers again after it found the queue full (R40): the message as it was, or one built anew: a push's
next SET, the SUPPLY now wanted, the current status block. -/
inductive OfferKind where
  | message (m : Msg)
  | push
  | supply
  | block
deriving DecidableEq, Repr

structure QueueOffer where
  pos : Pos
  what : OfferKind
  /-- the superframe of the last offer -/
  stamp : W32
deriving DecidableEq, Repr

/-- An input entry of an ANSWER (R26). The direction is kept as read (R186). -/
structure InputEntry where
  seq : Byte
  key : W16
  direction : Byte
deriving DecidableEq, Repr

/-- The cradle fields of an ANSWER (R185). The supply state is kept as read (R186). -/
structure CradleFields where
  ignition : Bool
  dip : Bool
  supply : Byte
  enabled : Byte
  budget : W32
  levels : Byte
deriving DecidableEq, Repr

/-- The display fields of an ANSWER (R185). -/
structure DisplayFields where
  received : W16
  lastTag : Byte
  stagingEmpty : Bool
deriving DecidableEq, Repr

/-- An ANSWER whose CRC and structure are good (R26, R185, R186). -/
structure Answer where
  pos : Byte
  inSession : Bool
  held : Bool
  bufferEmpty : Bool
  tag : BitVec 4
  code : BitVec 3
  payload : List Byte
  entries : List InputEntry
  lost : W16
  cradle : Option CradleFields
  sense : Option Byte
  display : Option DisplayFields
deriving DecidableEq, Repr

/-! ### The node table -/

structure Identity where
  kind : Kind
  vendor : W16
  product : W16
  revision : Byte
  serial : W32
deriving DecidableEq, Repr

structure IdentCap where
  declared : Kind
  port : Bool
  statusConsumer : Bool
deriving DecidableEq, Repr

structure KeysCap where
  count : W16
  indicators : Byte
  depth : Byte
deriving DecidableEq, Repr

structure DisplayCap where
  width : W16
  height : W16
  staging : W16
deriving DecidableEq, Repr

/-- Base draw and the extra draws of levels 1 upward, in mW. -/
structure PowerCap where
  base : W16
  draws : List W16
deriving DecidableEq, Repr

/-- A supply offer: 50 mV units, 10 mA units (R57, R184). -/
structure Offer where
  volt : W16
  cur : W16
  ignitionOnly : Bool
deriving DecidableEq, Repr

/-- The capability summary (R4): each section present or absent. The lines section is the byte of R184. -/
structure Caps where
  ident : Option IdentCap
  keys : Option KeysCap
  display : Option DisplayCap
  power : Option PowerCap
  supply : Option (List Offer)
  lines : Option Byte
deriving DecidableEq, Repr

def Caps.none : Caps :=
  { ident := Option.none, keys := Option.none, display := Option.none, power := Option.none, supply := Option.none, lines := Option.none }

/-- One entry of the node table (R2). -/
structure Entry where
  state : EntryState
  kind : Kind
  vendor : W16
  product : W16
  revision : Byte
  serial : W32
  caps : Caps
  seg : SegState
  returned : Bool
  imageLost : Bool
  announced : Bool
  resume : Option Live
  lostAt : Option W32
  attempts : Byte
  releasing : Bool
deriving DecidableEq, Repr

/-- The VACANT values of R18. -/
def Entry.vacant : Entry :=
  { state := .vacant, kind := .unknown, vendor := 0, product := 0, revision := 0, serial := 0, caps := Caps.none
    seg := .off, returned := false, imageLost := false, announced := false, resume := Option.none
    lostAt := Option.none, attempts := 0, releasing := false }

/-- A standing fault: its code, the sense code it stands for (none for SILENT), the localized flag (R67). -/
structure Standing where
  code : FaultCode
  sense : Option SenseCode
  localized : Bool
deriving DecidableEq, Repr

/-- The segment record of R67. The last code is kept as read (R186). -/
structure SegRecord where
  standing : Option Standing
  confirm : Nat
  cleanRun : Nat
  last : Byte
deriving DecidableEq, Repr

def SegRecord.init : SegRecord := { standing := Option.none, confirm := 0, cleanRun := 0, last := 0 }

inductive LocateCause where
  | automatic | host
deriving DecidableEq, Repr

/-- The locate context of R76. -/
structure Locate where
  step : LocateStep
  seg : Pos
  timer : Nat
  sought : Option SenseCode
  cause : LocateCause
  /-- the SEGMENT OFF of step 1 has returned DONE (R77) -/
  offDone : Bool
  /-- the last segment observed, 0 when none was (R78) -/
  observed : Nat
  result : LocateResult
deriving DecidableEq, Repr

def Locate.init : Locate :=
  { step := .idle, seg := .p2, timer := 0, sought := Option.none, cause := .automatic, offDone := false, observed := 0, result := .none }

/-- The walk context of R55: reading the header, or the record at an offset, of which `buf` has been read. -/
inductive WalkAt where
  | header
  | record (offset : Nat) (buf : List Byte)
deriving DecidableEq, Repr

structure Walk where
  serial : Nat
  at_ : WalkAt
  limit : Nat
  count : Nat
  used : List Nat
deriving DecidableEq, Repr

/-- The progress of configuring (R61). -/
structure Configuring where
  serial : Nat
  sessionDone : Bool
  applyDone : Bool
  blockDone : Bool
deriving DecidableEq, Repr

def Configuring.init : Configuring := { serial := 0, sessionDone := false, applyDone := false, blockDone := false }

/-- What discovery does when a release completes (R12, R64, R69, R70): faultTimer is FAULTED from before on, its frontier
timer starting at the completion. -/
inductive AfterRelease where
  | keep
  | deferred
  | waiting
  | faulted
  | faultTimer
  | take (k : Pos) (id : Identity)
deriving DecidableEq, Repr

/-- A pending release (R16): its first entry, the positions whose RELEASE has not returned, what follows. -/
structure Release where
  first : Pos
  waits : Per6 Bool
  after : AfterRelease
deriving DecidableEq, Repr

/-- A record of the fault log (R80). -/
structure FaultRecord where
  number : W32
  code : FaultCode
  placeKind : PlaceKind
  place : Byte
  localized : Bool
  detail : FaultCode
  session : W16
  stamp : W32
deriving DecidableEq, Repr

/-- The fault log (R81): the latest 16 records, oldest first; the total; the total last written to the window. -/
structure FaultLog where
  records : List FaultRecord
  total : W32
  written : W32
deriving DecidableEq, Repr

/-! ### The session -/

inductive Following where
  /-- BRINGUP if the sense line is active at completion, otherwise UNDOCKED -/
  | bySense
  | bringup
  | undocked
  | released
deriving DecidableEq, Repr

/-- The undock pending record (R83, R89). A bring-up given up has no reason. -/
structure Undock where
  reason : Option UndockReason
  following : Following
deriving DecidableEq, Repr

inductive SequenceStep where
  | drain
  | releasing (k : Pos)
  | undocking
deriving DecidableEq, Repr

/-- The release sequence context (R98, R99). -/
structure Sequence where
  step : SequenceStep
  timer : Nat
  /-- buffer empty has been shown since the sequence started -/
  empty : Per6 Bool
  /-- asked for by the Exchange Port -/
  forDisable : Bool
deriving DecidableEq, Repr

/-! ### Settings -/

/-- A node intent (R104). -/
structure NodeIntent where
  ind : Per8 IndMode
  keyBacklight : Byte
  displayBacklight : Byte
  mode : DispMode
  motionExempt : Bool
  attentionSerial : Byte
  pattern : Pattern
deriving DecidableEq, Repr

/-- The defaults of R104. -/
def NodeIntent.default : NodeIntent :=
  { ind := Per8.const .off, keyBacklight := 0, displayBacklight := 8, mode := .on, motionExempt := false
    attentionSerial := 0, pattern := .short }

/-- A global intent (R105). -/
structure GlobalIntent where
  holdLimit : W16
  minVolt : W16
  maxVolt : W16
  preference : Preference
  minPower : W32
  threshold : W16
  enables : Per9 Bool
  functions : Per4 LineFn
  locateSerial : W32
  chainSerial : W32
  releaseSerial : W32
  block : W64
deriving DecidableEq, Repr

/-- The confirmed shadow (R112): for each item the value confirmed with DONE, or UNKNOWN. -/
structure Shadow where
  hold : Option W16
  mode : Option W16
  displayBacklight : Option W16
  keyBacklight : Option W16
  ind : Per8 (Option W16)
deriving DecidableEq, Repr

def Shadow.unknown : Shadow :=
  { hold := none, mode := none, displayBacklight := none, keyBacklight := none, ind := Per8.const none }

/-- A push in flight (R113): the generation its applied record will show, and whether it is the first apply (R118). -/
structure Push where
  gen : W32
  first : Bool
deriving DecidableEq, Repr

/-- A pending attention (R119): its pattern and stale timer. -/
structure Attention where
  pattern : Pattern
  timer : Nat
deriving DecidableEq, Repr

/-- What the Intent Reconciler keeps for a position. -/
structure IrPos where
  taken : NodeIntent
  takenGen : W32
  appliedGen : W32
  result : AppliedResult
  refused : Byte
  stale : Bool
  keptAttention : Option Byte
  attention : Option Attention
  shadow : Shadow
  push : Option Push
  /-- the derived items when the last push ended NODE_REFUSED, until one of them changes (R116) -/
  blocked : Option (List SetItem)
  stamp : W32
deriving DecidableEq, Repr

/-- R121. -/
def IrPos.init : IrPos :=
  { taken := NodeIntent.default, takenGen := 0, appliedGen := 0, result := .pending, refused := 0, stale := false
    keptAttention := none, attention := none, shadow := Shadow.unknown, push := none, blocked := none, stamp := 0 }

inductive IntentRec where
  | global
  | node (k : Pos)
deriving DecidableEq, Repr

/-- The three steps of a record read (R107). -/
inductive ReadStep where
  | close | fields | openGen
deriving DecidableEq, Repr

/-- A scan pass under way (R106): the record being read, the step, and what its earlier steps returned. -/
structure ScanPass where
  record : IntentRec
  step : ReadStep
  closeGen : W32
  globalData : BitVec 320
  nodeData : BitVec 112
deriving DecidableEq, Repr

/-! ### Input -/

/-- What the Input Collector keeps for a position (R123). -/
structure InputSession where
  isOpen : Bool
  accepted : Byte
  lost : W16
  keyDown : Byte
deriving DecidableEq, Repr

def InputSession.closed : InputSession := { isOpen := false, accepted := 0, lost := 0, keyDown := 0 }

/-- An item of staging: a KEY entry or a marker (R128, R129). Position 0 is DOCK's and UNDOCK's. -/
structure Item where
  kind : ItemKind
  position : Byte
  direction : Byte
  seq : Byte
  detail : W16
  stamp : W32
deriving DecidableEq, Repr

/-! ### Display updates -/

/-- A tile of the ready list: its index within the batch and its 512 pixel bytes (byte 0 the lowest). -/
structure Tile where
  index : Nat
  pixels : BitVec 4096
deriving DecidableEq, Repr

inductive PostingState where
  | gate | sending | committing | waiting
deriving DecidableEq, Repr

/-- The working context of the taken posting (R140, R143). -/
structure Posting where
  post : W16
  target : Pos
  x : W16
  y : W16
  w : W16
  h : W16
  source : W64
  stride : W32
  hostTag : W32
  state : PostingState
  batch : Nat
  /-- tiles of the batch -/
  size : Nat
  tag : Byte
  /-- the send point p -/
  sendPoint : Nat
  /-- the known received count r -/
  received : Nat
  ready : List Tile
  timer : Nat
  refusals : Nat
  tilesSent : W16
  commits : Byte
  split : Bool
  /-- the stamp of the superframe in which the batch began -/
  began : W32
  /-- the COMMIT of the batch has been answered DONE -/
  committed : Bool
  /-- returned was set on the target: validate again when it is ACTIVE (R149) -/
  revalidate : Bool
  /-- the first ANSWER after a resume decides the commit (R149) -/
  checkReport : Bool
deriving DecidableEq, Repr

/-- An outcome decided and not yet in the window (R142). -/
structure OutcomeWrite where
  outcome : UpdateOutcome
  reason : UpdateReason
  split : Bool
  tilesSent : W16
  commits : Byte
  stamp : W32
  serial : W16
  hostTag : W32
  /-- the fields have been written, the serial has not -/
  fieldsWritten : Bool
deriving DecidableEq, Repr

/-! ### Supply -/

/-- The live supply state (R153). The enabled set has one bit per offer. -/
structure LiveSupply where
  ignition : Bool
  enabled : Byte
  supply : Byte
  budget : W32
  dip : Bool
deriving DecidableEq, Repr

/-- The cleared live state of R153. -/
def LiveSupply.cleared : LiveSupply := { ignition := false, enabled := 1, supply := 0, budget := 0, dip := false }

/-- The supply policy (R154). -/
structure Policy where
  minVolt : W16
  maxVolt : W16
  minPower : W32
  preference : Preference
deriving DecidableEq, Repr

/-- 5.00 V, 20.00 V, 0 mW, MOST_POWER (R154), in 50 mV units. -/
def Policy.default : Policy := { minVolt := 100, maxVolt := 400, minPower := 0, preference := .mostPower }

/-! ### Side lines -/

/-- What the Side Line Unit keeps for a line (R168, R169, R170). -/
structure LineState where
  fn : LineFn
  result : LineResult
  stable : StableLevel
  candidate : Option Bool
  run : Nat
  role : Option LineRole
  level : Option Bool
deriving DecidableEq, Repr

def LineState.init : LineState :=
  { fn := .none, result := .none, stable := .none, candidate := Option.none, run := 0, role := Option.none, level := Option.none }

/-! ### Window accesses -/

/-- The published sections (R19, R67, R81, R109, R120, R166, R172). -/
inductive SecId where
  | entry (k : Pos)
  | applied (k : Pos)
  | globalApplied
  | chain
  | power
  | lines
  | slot (i : Nat)
deriving DecidableEq, Repr

/-- The step of a section write that comes next (R19). -/
inductive SecStep where
  | idle | openGen | fields | close
deriving DecidableEq, Repr

/-- A section: its generation, whether a write is wanted, the step of the write in progress. -/
structure Sec where
  gen : W32
  dirty : Bool
  step : SecStep
deriving DecidableEq, Repr

def Sec.init : Sec := { gen := 1, dirty := false, step := .idle }

/-- The words of the part header that are written one by one (R176, R184). -/
inductive HeaderWord where
  | dockState | session | counter (c : Cause) | stallArea
  | dropped | journalCount | cursor | hostTag | torn
deriving DecidableEq, Repr

/-- An access of the engine (R177). -/
inductive Access where
  /-- read the layout version: STARTING's check, or a stall retry -/
  | layout (retry : Bool)
  /-- the n-th initial write of STARTING -/
  | initial (n : Nat)
  | header (w : HeaderWord)
  | publish (id : SecId) (step : SecStep)
  | faultTotal (v : W32)
  | intent (r : IntentRec) (step : ReadStep)
  | takenCount
  | journal
  | writeCount (v : W32)
  | firstIndex
  | record (c : BitVec 6)
  | nextIndex (c : BitVec 6)
  | outcomeFields (c : BitVec 6)
  | outcomeSerial (c : BitVec 6)
  /-- the pixels of a tile of the batch, for ready list number n: 32 bytes at each of its 16 row addresses (R143, R144) -/
  | pixels (index : Nat) (n : Nat) (rows : List Nat)
deriving DecidableEq, Repr

end Sys2Proof.Machine
end

