-- ==== Sys2Proof/Machine/State.lean ====
section
/-! DEFINITION. The whole state of the part, block by block (00_scope.md "Blocks"), the queue of commands, and the state after reset. -/
namespace Sys2Proof.Machine

/-- PCIe configuration the part keeps (R175). -/
structure Pcie where
  bar0 : W64
  busMaster : Bool
  msiEnable : Bool
deriving DecidableEq, Repr

/-- Exchange Port (chapter 11). -/
structure Xp where
  part : PartState
  /-- CONTROL.ENABLE, NOTICE_ON, NOTICE_MASK; CONTROL.RESET reads 0 (R173) -/
  enable : Bool
  noticeOn : Bool
  noticeMask : Bool
  windowLow : W32
  windowHigh : W32
  base : Option W64
  windowBad : Bool
  windowStall : Bool
  noticePending : Bool
  noticeRequest : Bool
  counters : Per9 W32
  enables : Per9 Bool
  /-- a message waits for these counter words, advanced before its boundary and not yet written (R180) -/
  msiWait : Option (Per9 Bool)
  /-- messages sent since the last reset (the model's record of the output) -/
  msiSent : Nat
  nudged : Bool
  scanDue : Bool
  /-- a scan falls due in the next superframe: a window stall has cleared (R179) -/
  scanNext : Bool
  stallArea : StallArea
  stallAreaOwed : Bool
  /-- the write of the stall area could not be issued during the stall (R179) -/
  stallAreaLater : Bool
  retryTimer : Nat
  retryDue : Bool
  retryOffered : Bool
  /-- STARTING's read of the layout version is offered -/
  layoutOffered : Bool
  /-- the next initial write of STARTING -/
  initial : Option Nat
  /-- the request each requester has waiting (R177) -/
  offered : PerRequester (Option Access)
  engine : Option Access
  /-- the requester served last: the owner of the access in the engine -/
  lastServed : Requester
deriving DecidableEq, Repr

/-- The values of an entry section that R19 and R20 compare with the previous write. -/
structure EntryWritten where
  state : EntryState
  identity : Identity
  miss : Byte
  winErr : W16
  cumErr : W32
  degraded : Bool
deriving DecidableEq, Repr

/-- The part's published sections and header words: what waits to be written (R19, R176). -/
structure Pub where
  entry : Per6 Sec
  /-- as last written -/
  entryWritten : Per6 EntryWritten
  /-- as carried by the write in progress -/
  entryCarried : Per6 EntryWritten
  applied : Per6 Sec
  globalApplied : Sec
  chain : Sec
  power : Sec
  lines : Sec
  slots : List Sec
  dockState : Bool
  session : Bool
  counters : Per9 Bool
  dropped : Bool
  journalCount : Bool
  cursor : Bool
  hostTag : Bool
  torn : Bool
deriving DecidableEq, Repr

/-- Link Engine (chapter 2). -/
structure Le where
  stamp : W32
  current : Per6 Bool
  next : Per6 Bool
  gen : Byte
  queues : Per6 (List Msg)
  tags : Per6 (BitVec 4)
  pointer : Pos
  offers : List QueueOffer
  results : List CtrlResult
  miss : Per6 Byte
  winErr : Per6 W16
  cumErr : Per6 W32
  degraded : Per6 Bool
  /-- the window count has reached a threshold in this error window (R47) -/
  reached : Per6 Bool
  threshold : W16
  interruption : Nat
  /-- loss reports sent and not yet taken (R45) -/
  lossDue : Per6 Bool
  interruptionDue : Bool
  /-- an error window has ended (R47) -/
  windowEnded : Bool
  /-- answer windows of this superframe still to come -/
  windows : Per6 Bool
  probeWindow : Option Pos
  /-- a position of the current schedule has answered in this superframe -/
  answered : Bool
  /-- the messages on the pair in this superframe, as bytes (R23, R185) -/
  wire : List (List Byte)
deriving DecidableEq, Repr

/-- Chain Manager (chapters 1, 3, 4). The frontier is computed from the table (R49). -/
structure Cm where
  table : Per6 Entry
  discovery : Discovery
  stepTimer : Nat
  frontierTimer : Nat
  /-- COMPLETE with a re-check timer (R62) -/
  recheck : Bool
  retry : Nat
  /-- the step under way is a retry of a faulted segment (R63) -/
  isRetry : Bool
  initialPass : Bool
  chainSerial : W32
  /-- the code this observation has read, of discovery or locate (R52, R78) -/
  codeRead : Option SenseCode
  /-- the SEGMENT OFF of an observation that found NO_LOAD is outstanding (R52) -/
  offWait : Bool
  segs : Per6 SegRecord
  /-- a SEGMENT ON behind a new entry to be queued when the dock is DOCKED again (R53, R54) -/
  onOwed : Per6 Bool
  shut : Option Pos
  locate : Locate
  locateSerial : W32
  walks : Per6 (Option Walk)
  configuring : Per6 Configuring
  /-- numbers walks and configurings -/
  workSerial : Nat
  resumeTimer : Nat
  /-- the entry the resume timer runs for (R14) -/
  resumeFor : Option Pos
  /-- RESUME to the lowest LOST entry is queued in the next superframe (R14) -/
  resumeNow : Bool
  release : Option Release
  log : FaultLog
deriving DecidableEq, Repr

/-- Session Controller (chapter 5). -/
structure Sc where
  dock : DockState
  session : W16
  announced : Bool
  holdLimit : W16
  /-- the kept sense level, active or not; none before the first sample -/
  sense : Option Bool
  senseRun : W16
  sampled : Bool
  bringupTimer : Nat
  /-- a PROBE(1) has been answered DONE since BRINGUP was entered -/
  probeAnswered : Bool
  noCradle : Bool
  probeTimer : Nat
  holdTimer : Nat
  tickTimer : Nat
  releasedTimer : Nat
  sequence : Option Sequence
  releaseSerial : W32
  undock : Option Undock
  /-- the position whose RESUME the return pass waits for (R95) -/
  pass : Option Pos
  /-- a disable waits for the pending undock (R97) -/
  disableWaits : Bool
  /-- the end of the sequence is reported and not yet taken (R99) -/
  endReport : Bool
deriving DecidableEq, Repr

/-- Intent Reconciler (chapter 6). -/
structure Ir where
  pos : Per6 IrPos
  globalGen : W32
  globalRefused : Bool
  globalField : Byte
  globalStamp : W32
  /-- a global record has been accepted since RUNNING -/
  globalTaken : Bool
  pass : Option ScanPass
  owed : Bool
  torn : W32
deriving DecidableEq, Repr

/-- Input Collector (chapter 7). -/
structure Ic where
  pos : Per6 InputSession
  staging : List Item
  writeCount : W32
  written : W32
  taken : Option W32
  /-- JOURNAL_COUNT: the last count read was invalid (R131) -/
  invalid : Bool
  takenDue : Bool
  /-- the read of the taken count of this superframe has fallen due (R131, R178) -/
  asked : Bool
  /-- a count must be read before the next entry is written (R132) -/
  takenFirst : Bool
  dropped : W32
  drain : Option Nat
deriving DecidableEq, Repr

/-- Display Transfer Unit (chapter 8). -/
structure Dtu where
  cursor : Option (BitVec 6)
  phase : CursorPhase
  readDue : Bool
  posting : Option Posting
  outcome : Option OutcomeWrite
  tagCounter : Byte
  /-- the last committed tag each position last reported -/
  lastTag : Per6 (Option Byte)
  /-- the outcome serial of each record as the part wrote it -/
  serials : List W16
  /-- the number of the present ready list -/
  readyNo : Nat
deriving DecidableEq, Repr

/-- Power Contract Unit (chapter 9). -/
structure Pcu where
  contract : ContractState
  offer : Option Byte
  mismatch : Bool
  refused : Byte
  transTimer : Nat
  owed : Bool
  baseRequest : Bool
  /-- the first cradle ANSWER after a resume is awaited (R160) -/
  resumed : Bool
  live : LiveSupply
  policy : Policy
  braced : Bool
  clearCount : Nat
  reqDisplay : Per6 Byte
  reqKey : Per6 Byte
  grantDisplay : Per6 Byte
  grantKey : Per6 Byte
  short : Bool
  baseSum : Nat
  remainder : Int
  hostBlock : W64
  delivered : Per6 (Option W64)
  blockSent : W64
deriving DecidableEq, Repr

/-- Side Line Unit (chapter 10). -/
structure Slu where
  lines : Per4 LineState
  motion : Bool
  crank : Bool
deriving DecidableEq, Repr

/-- The part: its nine blocks, what it has written to host memory (the Link Engine's wire is in `le`), and its PCIe configuration. -/
structure Dev where
  xp : Xp
  pub : Pub
  le : Le
  cm : Cm
  sc : Sc
  ir : Ir
  ic : Ic
  dtu : Dtu
  pcu : Pcu
  slu : Slu
  pcie : Pcie
  /-- the bytes of host memory the part has written, addresses rising (R176) -/
  mem : List Host.Cell
  /-- free choices taken so far (Config) -/
  free : Nat
deriving DecidableEq, Repr

/-- The state: the part and the commands that wait, first in first out. -/
structure State where
  dev : Dev
  pending : List Instr
deriving DecidableEq, Repr

/-- The spec gives no event that stops the part: no command faults (INVENTORY.md, Faults). -/
inductive Fault where
deriving DecidableEq, Repr

/-- Why a command has no meaning. -/
inductive Refusal where
  /-- A row whose meaning has not been written; raised by no arm. Safe: nothing follows from a refused step. -/
  | notModelled (mnemonic : String)
deriving DecidableEq, Repr

/-- Exchange Port after a power-on reset (R173, R175). -/
def Xp.reset : Xp :=
  { part := .disabled, enable := false, noticeOn := false, noticeMask := false, windowLow := 0, windowHigh := 0
    base := none, windowBad := false, windowStall := false, noticePending := false, noticeRequest := false
    counters := Per9.const 0, enables := Per9.const false, msiWait := none, msiSent := 0, nudged := false
    scanDue := false, scanNext := false, stallArea := .none, stallAreaOwed := false, stallAreaLater := false
    retryTimer := 0, retryDue := false, retryOffered := false, layoutOffered := false, initial := none
    offered := PerRequester.const none, engine := none, lastServed := .dtu }

def EntryWritten.vacant : EntryWritten :=
  { state := .vacant, identity := { kind := .unknown, vendor := 0, product := 0, revision := 0, serial := 0 }
    miss := 0, winErr := 0, cumErr := 0, degraded := false }

/-- Every section as STARTING writes it, generation 1, nothing waiting (R21, R82, R121, R167, R172). -/
def Pub.reset : Pub :=
  { entry := Per6.const Sec.init, entryWritten := Per6.const EntryWritten.vacant
    entryCarried := Per6.const EntryWritten.vacant
    applied := Per6.const Sec.init, globalApplied := Sec.init, chain := Sec.init
    power := Sec.init, lines := Sec.init, slots := List.replicate 16 Sec.init
    dockState := false, session := false, counters := Per9.const false, dropped := false, journalCount := false
    cursor := false, hostTag := false, torn := false }

/-- R48. -/
def Le.reset : Le :=
  { stamp := 0, current := Per6.const false, next := Per6.const false, gen := 0, queues := Per6.const []
    tags := Per6.const 0, pointer := .p6, offers := [], results := [], miss := Per6.const 0
    winErr := Per6.const 0, cumErr := Per6.const 0, degraded := Per6.const false, reached := Per6.const false
    threshold := 0
    interruption := 0, lossDue := Per6.const false, interruptionDue := false, windowEnded := false
    windows := Per6.const false, probeWindow := none, answered := false, wire := [] }

/-- R21, R49, R82. The two serials are kept by every reset; these are their values before the first power-on (log 5). -/
def Cm.reset : Cm :=
  { table := Per6.const Entry.vacant, discovery := .stopped, stepTimer := 0, frontierTimer := 0, recheck := false
    retry := 0, isRetry := false, initialPass := false, chainSerial := 0, codeRead := none, offWait := false
    segs := Per6.const SegRecord.init, onOwed := Per6.const false, shut := none, locate := Locate.init, locateSerial := 0
    walks := Per6.const none, configuring := Per6.const Configuring.init, workSerial := 0, resumeTimer := 0
    resumeFor := none, resumeNow := false, release := none
    log := { records := [], total := 0, written := 0 } }

/-- R103. The release serial is kept by every reset (log 5). -/
def Sc.reset : Sc :=
  { dock := .undocked, session := 0, announced := false, holdLimit := 1500, sense := none, senseRun := 0
    sampled := false, bringupTimer := 0, probeAnswered := false, noCradle := false, probeTimer := 0, holdTimer := 0
    tickTimer := 0, releasedTimer := 0, sequence := none, releaseSerial := 0, undock := none, pass := none
    disableWaits := false, endReport := false }

/-- R121; the stamp of the global applied section, which it does not give, is 0 (the model's choice, log 117). -/
def Ir.reset : Ir :=
  { pos := Per6.const IrPos.init, globalGen := 0, globalRefused := false, globalField := 0, globalStamp := 0
    globalTaken := false, pass := none, owed := false, torn := 0 }

/-- R135. -/
def Ic.reset : Ic :=
  { pos := Per6.const InputSession.closed, staging := [], writeCount := 0, written := 0, taken := none
    invalid := false, takenDue := false, asked := false, takenFirst := false, dropped := 0, drain := none }

/-- R152; of the tags the targets last reported, which it does not list, none (the model's choice, log 109). -/
def Dtu.reset : Dtu :=
  { cursor := none, phase := .at, readDue := false, posting := none, outcome := none, tagCounter := 0
    lastTag := Per6.const none, serials := List.replicate 64 0, readyNo := 0 }

/-- R167. -/
def Pcu.reset : Pcu :=
  { contract := .none, offer := none, mismatch := false, refused := 0, transTimer := 0, owed := false
    baseRequest := false, resumed := false, live := LiveSupply.cleared, policy := Policy.default, braced := false
    clearCount := 0, reqDisplay := Per6.const 8, reqKey := Per6.const 0, grantDisplay := Per6.const 0
    grantKey := Per6.const 0, short := false, baseSum := 0, remainder := 0, hostBlock := 0
    delivered := Per6.const none, blockSent := 0 }

/-- R172. -/
def Slu.reset : Slu := { lines := Per4.const LineState.init, motion := false, crank := false }

/-- The part right after power-on: DISABLED, host memory not yet written (R174, R175). -/
def Dev.reset : Dev :=
  { xp := Xp.reset, pub := Pub.reset, le := Le.reset, cm := Cm.reset, sc := Sc.reset, ir := Ir.reset, ic := Ic.reset
    dtu := Dtu.reset, pcu := Pcu.reset, slu := Slu.reset
    pcie := { bar0 := 0, busMaster := false, msiEnable := false }, mem := [], free := 0 }

/-- The machine right after reset, with no command waiting. -/
def State.reset : State := { dev := Dev.reset, pending := [] }

end Sys2Proof.Machine
end

