-- ==== Sys2Proof/Machine/Ops.lean ====
section
/-! DEFINITION. The named operations the blocks share: one block changed at a time, host memory, notice counters, node control queues, schedules, markers, the fault log, the node table read. -/
namespace Sys2Proof.Machine

/-! ### One block at a time -/

def Dev.onXp (f : Xp → Xp) (d : Dev) : Dev := { d with xp := f d.xp }
def Dev.onPub (f : Pub → Pub) (d : Dev) : Dev := { d with pub := f d.pub }
def Dev.onLe (f : Le → Le) (d : Dev) : Dev := { d with le := f d.le }
def Dev.onCm (f : Cm → Cm) (d : Dev) : Dev := { d with cm := f d.cm }
def Dev.onSc (f : Sc → Sc) (d : Dev) : Dev := { d with sc := f d.sc }
def Dev.onIr (f : Ir → Ir) (d : Dev) : Dev := { d with ir := f d.ir }
def Dev.onIc (f : Ic → Ic) (d : Dev) : Dev := { d with ic := f d.ic }
def Dev.onDtu (f : Dtu → Dtu) (d : Dev) : Dev := { d with dtu := f d.dtu }
def Dev.onPcu (f : Pcu → Pcu) (d : Dev) : Dev := { d with pcu := f d.pcu }
def Dev.onSlu (f : Slu → Slu) (d : Dev) : Dev := { d with slu := f d.slu }

/-- Apply a change only when a condition holds. -/
def Dev.when (b : Bool) (f : Dev → Dev) (d : Dev) : Dev := if b then f d else d

/-! ### Bits and bytes -/

/-- A saturating counter advances by 1 (R1). -/
def satInc {w : Nat} (x : BitVec w) : BitVec w := if x = BitVec.allOnes w then x else x + 1

/-- A 16-bit saturating counter advances by n (R1). -/
def satAdd16 (x : W16) (n : Nat) : W16 :=
  if x.toNat + n ≥ 65535 then 65535#16 else BitVec.ofNat 16 (x.toNat + n)

/-- Little-endian bytes (R1). -/
def le16 (x : W16) : List Byte := [x.extractLsb' 0 8, x.extractLsb' 8 8]
def le32 (x : W32) : List Byte :=
  [x.extractLsb' 0 8, x.extractLsb' 8 8, x.extractLsb' 16 8, x.extractLsb' 24 8]
def le64 (x : W64) : List Byte := le32 (x.extractLsb' 0 32) ++ le32 (x.extractLsb' 32 32)

def ofLe16 (b0 b1 : Byte) : W16 := b1 ++ b0
def ofLe32 (b0 b1 b2 b3 : Byte) : W32 := b3 ++ b2 ++ b1 ++ b0

def bit (b : Bool) : Byte := if b then 1 else 0

/-- A byte of flags, bit 0 first. -/
def flagByte (bs : List Bool) : Byte :=
  BitVec.ofNat 8 (bs.foldr (fun b n => (if b then 1 else 0) + 2 * n) 0)

/-- Padding with 00H (R181). -/
def zeros (n : Nat) : List Byte := List.replicate n 0

/-- The little-endian value of up to four bytes as a number. -/
def leNat : List Byte → Nat
  | [] => 0
  | b :: bs => b.toNat + 256 * leNat bs

/-- A position in a one-byte field. -/
def posByte (k : Pos) : Byte := BitVec.ofNat 8 k.toNat

/-! ### Host memory, as the part has written it (R176) -/

/-- The bytes of a run, one cell each. -/
def Mem.run (a : Nat) : List Byte → List Host.Cell
  | [] => []
  | b :: bs => (a, b) :: Mem.run (a + 1) bs

/-- The byte at an address, if the part has written it (log 6). -/
def Mem.read (m : List Host.Cell) (a : Nat) : Option Byte :=
  match m with
  | [] => none
  | c :: cs => if c.1 = a then some c.2 else Mem.read cs a

/-- A run of bytes written from an address on. -/
def Mem.write (m : List Host.Cell) (a : Nat) (bs : List Byte) : List Host.Cell :=
  m.filter (fun c => c.1 < a) ++ Mem.run a bs ++ m.filter (fun c => a + bs.length ≤ c.1)

/-- The canonical form: addresses strictly rising. An unlisted address has no byte, so no entry equals one. -/
abbrev Memory.wf (m : List Host.Cell) : Prop := m.Pairwise (fun a b => a.1 < b.1)

/-- The host address of an offset of the window (R173, R176). -/
def Dev.windowAddr (d : Dev) (offset : Nat) : Nat := (d.xp.base.getD 0).toNat + offset

/-- The part writes a run of bytes at an offset of the window. -/
def Dev.writeWindow (d : Dev) (offset : Nat) (bs : List Byte) : Dev :=
  { d with mem := Mem.write d.mem (d.windowAddr offset) bs }

/-! ### Notice counters (R180) -/

/-- A counter advances by n; its word waits to be written; an advance whose enable is YES sets the notice request. -/
def Dev.bumpBy (c : Cause) (n : W32) (d : Dev) : Dev :=
  if n = 0 then d
  else
    { d with
      xp := { d.xp with
        counters := d.xp.counters.set c (d.xp.counters.get c + n)
        noticeRequest := d.xp.noticeRequest || d.xp.enables.get c }
      pub := { d.pub with counters := d.pub.counters.set c true } }

def Dev.bump (c : Cause) (d : Dev) : Dev := d.bumpBy c 1

/-- The dock takes a state; a change advances DOCK by 1 (R102). -/
def Dev.setDock (s : DockState) (d : Dev) : Dev :=
  if d.sc.dock = s then d
  else (({ d with sc := { d.sc with dock := s }, pub := { d.pub with dockState := true } } : Dev).bump .dock)

/-! ### The node table read -/

def Dev.entry (d : Dev) (k : Pos) : Entry := d.cm.table.get k

def Dev.onEntry (k : Pos) (f : Entry → Entry) (d : Dev) : Dev :=
  { d with cm := { d.cm with table := d.cm.table.modify k f } }

def Entry.identity (e : Entry) : Identity :=
  { kind := e.kind, vendor := e.vendor, product := e.product, revision := e.revision, serial := e.serial }

/-- R3: kind, vendor code, product code and serial are equal; revision is not compared. -/
def Identity.matchesEntry (i : Identity) (e : Entry) : Bool :=
  i.kind == e.kind && i.vendor == e.vendor && i.product == e.product && i.serial == e.serial

def Entry.isVacant (e : Entry) : Bool := e.state == .vacant
def Entry.isAway (e : Entry) : Bool := e.state == .held || e.state == .lost

/-- HELD with returned set and resume state absent (R11). -/
def Entry.isReturned (e : Entry) : Bool := e.state == .held && e.returned && e.resume.isNone

/-- The highest non-VACANT position, or 0 (R5). -/
def Dev.last (d : Dev) : Nat :=
  Pos.all.foldl (fun n k => if (d.entry k).isVacant then n else k.toNat) 0

/-- The lowest position whose entry is VACANT or a returned HELD one, or 7 (R49). -/
def Dev.frontier (d : Dev) : Nat :=
  match Pos.all.find? (fun k => (d.entry k).isVacant || (d.entry k).isReturned) with
  | some k => k.toNat
  | none => 7

def Dev.anyLost (d : Dev) : Bool := Pos.all.any fun k => (d.entry k).state == .lost
def Dev.lowestLost (d : Dev) : Option Pos := Pos.all.find? fun k => (d.entry k).state == .lost
def Dev.anyReleasing (d : Dev) : Bool := Pos.all.any fun k => (d.entry k).releasing

/-- Positions k and behind. -/
def behind (k : Pos) : List Pos := Pos.all.filter fun j => k.toNat ≤ j.toNat

/-- A segment fault stands (R67). -/
def Dev.segmentFaultStands (d : Dev) : Bool := Pos.all.any fun k => (d.cm.segs.get k).standing.isSome

def Dev.onSeg (k : Pos) (f : SegRecord → SegRecord) (d : Dev) : Dev :=
  { d with cm := { d.cm with segs := d.cm.segs.modify k f } }

/-- The link is in use in BRINGUP, DOCKED, HOLDING and RELEASING (R22). -/
def Dev.linkInUse (d : Dev) : Bool :=
  match d.sc.dock with
  | .bringup => true | .docked => true | .holding => true | .releasing => true
  | .undocked => false | .detecting => false | .released => false

def Dev.working (d : Dev) : Bool := d.xp.part == .running || d.xp.part == .stopping

/-! ### Node control queues (R40, R43) -/

/-- PROBE, RESUME and RELEASE are session messages (R29). -/
def Payload.isSession : Payload → Bool
  | .probe => true | .resume _ => true | .release => true
  | .read _ _ => false | .set _ _ => false | .segment _ _ => false | .supply _ _ _ _ => false
  | .commit _ => false | .discard => false | .statusBlock _ => false

def Dev.queue (d : Dev) (k : Pos) : List Msg := d.le.queues.get k

def Dev.setQueue (k : Pos) (q : List Msg) (d : Dev) : Dev :=
  { d with le := { d.le with queues := d.le.queues.set k q } }

def nonSession (q : List Msg) : Nat := (q.filter fun m => !m.payload.isSession).length

/-- A session message finds the queue full at 8, any other when it holds 7 of them or 8 in all (R40). -/
def queueFull (q : List Msg) (m : Msg) : Bool :=
  if m.payload.isSession then 8 ≤ q.length else 7 ≤ nonSession q || 8 ≤ q.length

inductive Submitted where
  | queued | full | gone
deriving DecidableEq, Repr

/-- Answered GONE at once (R40): not a session message and the position VACANT; or the position covered by a pending
release and the message not a RELEASE of that release. -/
def Dev.goneAtOnce (d : Dev) (k : Pos) (m : Msg) : Bool :=
  (!m.payload.isSession && (d.entry k).isVacant) ||
  ((d.entry k).releasing && !(m.payload == .release && m.sub == .cm))

def Msg.result (m : Msg) (k : Pos) (code : ResultCode) (data : List Byte) : CtrlResult :=
  { pos := k, sub := m.sub, payload := m.payload, code := code, data := data }

def Dev.addResult (r : CtrlResult) (d : Dev) : Dev :=
  { d with le := { d.le with results := d.le.results ++ [r] } }

/-- A block submits a message to the queue of a position (R40). -/
def Dev.submit (d : Dev) (k : Pos) (m : Msg) : Dev × Submitted :=
  if d.goneAtOnce k m then (d.addResult (m.result k .gone []), .gone)
  else if queueFull (d.queue k) m then (d, .full)
  else (d.setQueue k (d.queue k ++ [m]), .queued)

/-- A submitter that finds the queue full keeps what it offered for the next superframe (R40). -/
def Dev.keepOffer (k : Pos) (what : OfferKind) (d : Dev) : Dev :=
  { d with le := { d.le with offers := d.le.offers ++ [{ pos := k, what := what, stamp := d.le.stamp }] } }

/-- Submit a message; when the queue is full keep it to be offered again as it is. -/
def Dev.send (k : Pos) (sub : Block) (payload : Payload) (d : Dev) : Dev :=
  match d.submit k (Msg.new sub payload) with
  | (d', .full) => d'.keepOffer k (.message (Msg.new sub payload))
  | (d', .queued) => d'
  | (d', .gone) => d'

/-- An offer of such a message as it was. -/
def OfferKind.any (w : OfferKind) (p : Msg → Bool) : Bool :=
  match w with
  | .message m => p m
  | .push => false | .supply => false | .block => false

/-- The submitter has such a message in the queue, or one it goes on offering to it (R40). -/
def Dev.holds (d : Dev) (k : Pos) (p : Msg → Bool) : Bool :=
  (d.queue k).any p ||
  d.le.offers.any fun o => o.pos == k && o.what.any p

/-- A result of such a message is on its way. -/
def Dev.resultWaits (d : Dev) (k : Pos) (p : Block → Payload → Bool) : Bool :=
  d.le.results.any fun r => r.pos == k && p r.sub r.payload

/-- Such a message is with the Link Engine: queued, offered, or its result on its way. -/
def Dev.outstanding (d : Dev) (k : Pos) (p : Block → Payload → Bool) : Bool :=
  d.holds k (fun m => p m.sub m.payload) || d.resultWaits k p

/-- The submitter withdraws its messages; it takes no action on the GONE the Link Engine answers (log 17). -/
def Dev.withdraw (k : Pos) (p : Msg → Bool) (d : Dev) : Dev :=
  { d with le := { d.le with
      queues := d.le.queues.modify k (fun q => q.filter fun m => !p m)
      offers := d.le.offers.filter fun o => !(o.pos == k && o.what.any p) } }

/-- Withdraw those not yet sent. -/
def Dev.withdrawUnsent (k : Pos) (p : Msg → Bool) (d : Dev) : Dev :=
  d.withdraw k (fun m => p m && m.tag.isNone)

/-- Withdraw; a message in flight gets this superframe's result first (R43). -/
def Dev.withdrawAfterFlight (k : Pos) (p : Msg → Bool) (d : Dev) : Dev :=
  let d := d.withdraw k (fun m => p m && !m.inFlight)
  { d with le := { d.le with
      queues := d.le.queues.modify k (fun q => q.map fun m => if p m then { m with withdrawn := true } else m) } }

/-- The messages still offered to a queue as they were. -/
def Dev.offeredTo (d : Dev) (k : Pos) : List Msg :=
  d.le.offers.filterMap fun o => if o.pos == k then (match o.what with | .message m => some m | _ => none) else none

/-- A result of a flushed position that its submitter has not taken yet is no more than GONE, but for that of a RELEASE (R43,
log 17). -/
def CtrlResult.flushed (k : Pos) (r : CtrlResult) : CtrlResult :=
  if r.pos = k ∧ r.payload ≠ .release then { r with code := .gone } else r

/-- A queue is flushed: every message leaves with GONE, in queue order (R43). A message still offered to it, which the
Link Engine answers GONE from now on (R16, R40), gets its GONE behind them; what is built anew gets it when it is offered. -/
def Dev.flush (k : Pos) (d : Dev) : Dev :=
  { d with le := { d.le with
      queues := d.le.queues.set k []
      offers := d.le.offers.filter fun o => !(o.pos == k && o.what.any fun _ => true)
      results := d.le.results.map (CtrlResult.flushed k) ++ (d.queue k ++ d.offeredTo k).map fun m => m.result k .gone [] } }

/-- A queue thaws: every waiting message restarts its attempt count and drops its first-BUSY stamp (R43). -/
def Dev.thaw (k : Pos) (d : Dev) : Dev :=
  { d with le := { d.le with
      queues := d.le.queues.modify k (fun q => q.map fun m => { m with attempts := 0, firstBusy := none }) } }

/-- A queue is frozen while the entry of its position is HELD or LOST (R43). -/
def Dev.frozen (d : Dev) (k : Pos) : Bool := (d.entry k).isAway

/-! ### The next schedule (R44) -/

def Dev.schedule (k : Pos) (d : Dev) : Dev := { d with le := { d.le with next := d.le.next.set k true } }
def Dev.unschedule (k : Pos) (d : Dev) : Dev := { d with le := { d.le with next := d.le.next.set k false } }

/-! ### Staging and markers (R128, R129) -/

def Ic.free (i : Ic) : Nat := 32 - i.staging.length

/-- The read of the taken count falls due, once in a superframe (R131, R134, R178). -/
def Ic.askTaken (i : Ic) : Ic := { i with takenDue := i.takenDue || !i.asked, asked := true }

/-- Fewer than 8 free places (R128). -/
def Ic.closedToInput (i : Ic) : Bool := i.free < 8

/-- A marker is staged, or dropped and counted when staging is full (R129). Direction and sequence have no value (R181). -/
def Dev.stageMarker (kind : ItemKind) (position : Byte) (detail : W16) (d : Dev) : Dev :=
  if d.ic.free = 0 then
    { d with ic := { d.ic with dropped := d.ic.dropped + 1 }, pub := { d.pub with dropped := true } }
  else
    { d with ic := { d.ic with
        staging := d.ic.staging ++
          [{ kind := kind, position := position, direction := 0xFF, seq := 0xFF, detail := detail, stamp := d.le.stamp }] } }

/-- RELEASE_ALL where the key-down count is above 0; the count is then 0, also when the marker is dropped (R127). -/
def Dev.releaseAll (k : Pos) (d : Dev) : Dev :=
  if (d.ic.pos.get k).keyDown = 0 then d
  else
    let d := d.stageMarker .releaseAll (posByte k) 0xFFFF
    { d with ic := { d.ic with pos := d.ic.pos.modify k fun s => { s with keyDown := 0 } } }

/-- The input session of a position closes (R123). -/
def Dev.closeInput (k : Pos) (d : Dev) : Dev :=
  let d := d.releaseAll k
  { d with ic := { d.ic with pos := d.ic.pos.set k InputSession.closed } }

/-- The input session of a position opens anew (R123). -/
def Dev.openInput (k : Pos) (d : Dev) : Dev :=
  let d := d.releaseAll k
  { d with ic := { d.ic with pos := d.ic.pos.set k { InputSession.closed with isOpen := true } } }

/-! ### The fault log (R80, R81) -/

/-- The slot of a record: (record number − 1) mod 16. -/
def slotOf (number : W32) : Nat := (number - 1).toNat % 16

/-- A section's write is wanted. -/
def Sec.want (s : Sec) : Sec := { s with dirty := true }

/-- A fault is taken: the total advances, the record goes into its slot and overwrites the oldest of 16. -/
def Dev.logFault (code : FaultCode) (placeKind : PlaceKind) (place : Byte) (localized : Bool) (detail : FaultCode)
    (d : Dev) : Dev :=
  let number := d.cm.log.total + 1
  let r : FaultRecord :=
    { number := number, code := code, placeKind := placeKind, place := place, localized := localized
      detail := detail, session := d.sc.session, stamp := d.le.stamp }
  let kept := if d.cm.log.records.length < 16 then d.cm.log.records else d.cm.log.records.drop 1
  { d with
    cm := { d.cm with log := { d.cm.log with records := kept ++ [r], total := number } }
    pub := { d.pub with
      slots := d.pub.slots.set (slotOf number) ((d.pub.slots.getD (slotOf number) Sec.init).want) } }

/-! ### Host-facing requests shared by the blocks -/

/-- The Intent Reconciler asks for a write of the applied section of a position; the stamp is that of the request (R120). -/
def Dev.wantApplied (k : Pos) (d : Dev) : Dev :=
  { d with
    ir := { d.ir with pos := d.ir.pos.modify k fun p => { p with stamp := d.le.stamp } }
    pub := { d.pub with applied := d.pub.applied.modify k Sec.want } }

def Dev.onIrPos (k : Pos) (f : IrPos → IrPos) (d : Dev) : Dev :=
  { d with ir := { d.ir with pos := d.ir.pos.modify k f } }

end Sys2Proof.Machine
end

