-- ==== Sys2Proof/Machine/Flags.lean ====
section
/-! DEFINITION. Flags and levels computed from the state: register values, degraded flags, line roles and levels, the brace conditions, the head status block. -/
namespace Sys2Proof.Machine

/-! ### Registers (R173, R183) -/

def PartState.code : PartState → Nat
  | .disabled => 0 | .starting => 1 | .running => 2 | .stopping => 3

def DockState.code : DockState → Nat
  | .undocked => 0 | .detecting => 1 | .bringup => 2 | .docked => 3 | .holding => 4 | .releasing => 5 | .released => 6

/-- 7260H, revision 01H (R183). -/
def partId : W32 := 0x72600100

/-- STATUS: part state in bits 1-0, WINDOW_BAD 4, WINDOW_STALL 5, NOTICE_PENDING 6, dock state in 10-8. -/
def Dev.status (d : Dev) : W32 :=
  BitVec.ofNat 32 (d.xp.part.code + 16 * d.xp.windowBad.toNat + 32 * d.xp.windowStall.toNat
    + 64 * d.xp.noticePending.toNat + 256 * d.sc.dock.code)

/-- CONTROL as read: RESET reads 0 (R173). -/
def Dev.control (d : Dev) : W32 :=
  BitVec.ofNat 32 (d.xp.enable.toNat + 4 * d.xp.noticeOn.toNat + 8 * d.xp.noticeMask.toNat)

/-- What a read of BAR0 returns; a read changes nothing (R173). -/
def Dev.readReg (d : Dev) (offset : BitVec 12) : W32 :=
  if offset = 0x000 then partId
  else if offset = 0x004 then d.control
  else if offset = 0x008 then d.status
  else if offset = 0x010 then d.xp.windowLow
  else if offset = 0x014 then d.xp.windowHigh
  else 0

/-! ### Degraded flags (R47) -/

/-- The degraded flag of a position is set when its window count has reached a threshold other than 0 and the flag was
clear; each setting advances ERRORS. That the count has reached a threshold in this window is kept to the window's end. -/
def Dev.checkDegraded (k : Pos) (d : Dev) : Dev :=
  if d.le.threshold ≠ 0 ∧ d.le.threshold ≤ d.le.winErr.get k then
    let d' : Dev := { d with le := { d.le with
      degraded := d.le.degraded.set k true, reached := d.le.reached.set k true } }
    if d.le.degraded.get k then d' else d'.bump .errors
  else d

/-- A new threshold applies at once (R47). -/
def Dev.setThreshold (t : W16) (d : Dev) : Dev :=
  let d := { d with le := { d.le with threshold := t } }
  if t = 0 then { d with le := { d.le with degraded := Per6.const false } }
  else Pos.all.foldl (fun d k => d.checkDegraded k) d

/-! ### Side lines (R168, R170, R171) -/

/-- Whether the lines section declares a line capable as an input (bit 2n) or an output (bit 2n+1). -/
def lineCapable (lines : Byte) (n : Line) (output : Bool) : Bool :=
  lines.getLsbD (2 * n.toNat + output.toNat)

def LineFn.isInput : LineFn → Bool
  | .parked => true | .moving => true | .crank => true | .release => true
  | .none => false | .dockedLamp => false | .faultLamp => false | .charging => false | .negotiating => false

def LineFn.isOutput : LineFn → Bool
  | .dockedLamp => true | .faultLamp => true | .charging => true | .negotiating => true
  | .none => false | .parked => false | .moving => false | .crank => false | .release => false

def LineState.isPlaced (l : LineState) : Bool := l.result == .placed

/-- The derived role of a line; none when no item is sent for it (R168). -/
def Dev.lineRole (d : Dev) (n : Line) : Option LineRole :=
  let l := d.slu.lines.get n
  if l.isPlaced && l.fn.isInput then some .input
  else if l.isPlaced && l.fn.isOutput then some .output
  else match (d.entry .p1).caps.lines with
    | none => none
    | some b =>
      if lineCapable b n false then some .input
      else if lineCapable b n true then some .output
      else none

/-- The condition of an output function (R171). -/
def Dev.outputHigh (d : Dev) : LineFn → Bool
  | .dockedLamp => d.sc.dock == .docked || d.sc.dock == .holding
  | .faultLamp => d.segmentFaultStands || d.anyLost
  | .charging => d.pcu.contract == .active
  | .negotiating => d.pcu.contract == .requested || d.pcu.contract == .transition
  | .none => false | .parked => false | .moving => false | .crank => false | .release => false

/-- The derived level of a line whose role is OUTPUT: its function's, or LOW (R168, R171). -/
def Dev.lineLevel (d : Dev) (n : Line) : Option Bool :=
  match d.lineRole n with
  | some .output =>
    let l := d.slu.lines.get n
    some (l.isPlaced && l.fn.isOutput && d.outputHigh l.fn)
  | some .input => none
  | none => none

/-- Active when a line carries MOVING with stable level ACTIVE or PARKED with stable level INACTIVE (R170). -/
def Slu.motionOf (s : Slu) : Bool :=
  Line.all.any fun n =>
    let l := s.lines.get n
    l.isPlaced && ((l.fn == .moving && l.stable == .active) || (l.fn == .parked && l.stable == .inactive))

/-- Active while a line carries CRANK with stable level ACTIVE (R170). -/
def Slu.crankOf (s : Slu) : Bool :=
  Line.all.any fun n =>
    let l := s.lines.get n
    l.isPlaced && l.fn == .crank && l.stable == .active

/-! ### Brace and head status block (R161, R164) -/

/-- The dip warning of the live state is set, or crank is active (R161). -/
def Dev.braceCondition (d : Dev) : Bool := d.pcu.live.dip || d.slu.crank

def Dev.contractLimited (d : Dev) : Bool :=
  d.pcu.contract == .base || (d.pcu.contract == .active && d.pcu.mismatch) || !d.pcu.live.ignition

def Dev.linkDegraded (d : Dev) : Bool :=
  d.anyLost || d.segmentFaultStands || Pos.all.any fun k => d.le.degraded.get k

/-- The current block: the host's 8 bytes with four flags of byte 0 raised while their conditions hold (R164, R184). -/
def Dev.currentBlock (d : Dev) : W64 :=
  d.pcu.hostBlock ||| (flagByte [d.contractLimited, d.linkDegraded, d.pcu.braced, d.ic.closedToInput]).zeroExtend 64

end Sys2Proof.Machine
end

