-- ==== Sys2Proof/Machine/Formats.lean ====
section
/-! DEFINITION. The layouts of chapter 12 that the part writes: codes, the CRC, link messages, and the sections and words of the exchange window. -/
namespace Sys2Proof.Machine

/-! ### Codes (R182) -/

def EntryState.code : EntryState → Byte
  | .vacant => 0 | .probed => 1 | .reading => 2 | .configuring => 3 | .active => 4 | .failed => 5 | .held => 6 | .lost => 7
def Kind.code : Kind → Byte
  | .unknown => 0 | .cradle => 1 | .keyboard => 2 | .display => 3 | .keystrip => 4
def SegState.code : SegState → Byte
  | .none => 0 | .off => 1 | .diag => 2 | .on => 3 | .fault => 4
def SenseCode.code : SenseCode → Byte
  | .clean => 0 | .noLoad => 1 | .openWire => 2 | .crossed => 3 | .shorted => 4 | .posToChassis => 5
  | .negToBattery => 6 | .negToChassis => 7 | .posToBattery => 8
def FaultCode.code : FaultCode → Byte
  | .none => 0 | .openWire => 1 | .crossed => 2 | .shorted => 3 | .posToChassis => 4 | .negToBattery => 5
  | .negToChassis => 6 | .posToBattery => 7 | .silent => 8 | .unlocated => 9 | .notReproduced => 10 | .noCradle => 11
  | .badDescriptor => 12 | .badOrder => 13 | .nodeLost => 14 | .budgetShort => 15 | .contractTimeout => 16
def PlaceKind.code : PlaceKind → Byte
  | .none => 0 | .segment => 1 | .position => 2
def IndMode.code : IndMode → Byte
  | .off => 0 | .on => 1 | .slow => 2 | .fast => 3
def DispMode.code : DispMode → Byte
  | .on => 0 | .blank => 1 | .off => 2
def Pattern.code : Pattern → Byte
  | .short => 0 | .long => 1 | .triple => 2
def LineRole.code : LineRole → Byte
  | .input => 0 | .output => 1
def SegSetting.code : SegSetting → Byte
  | .off => 0 | .on => 1 | .diag => 2
def ItemCode.code : ItemCode → Byte
  | .token => 0 | .holdLimit => 1 | .indicator => 2 | .keyBacklight => 3 | .displayBacklight => 4 | .displayMode => 5
  | .attention => 6 | .lineRole => 7 | .lineLevel => 8
def ItemKind.code : ItemKind → Byte
  | .key => 1 | .dock => 2 | .undock => 3 | .nodeAdded => 4 | .nodeRemoved => 5 | .releaseAll => 6 | .loss => 7
def UndockReason.code : UndockReason → Byte
  | .expired => 0 | .released => 1 | .otherDock => 2
def AppliedResult.code : AppliedResult → Byte
  | .pending => 0 | .done => 1 | .clipped => 2 | .refused => 3 | .nodeRefused => 4
def UpdateOutcome.code : UpdateOutcome → Byte
  | .none => 0 | .done => 1 | .withdrawn => 2 | .failed => 3
def UpdateReason.code : UpdateReason → Byte
  | .none => 0 | .noDisplay => 1 | .badRect => 2 | .badStride => 3 | .sourceRead => 4 | .noProgress => 5
  | .nodeGone => 6 | .released => 7
def CursorPhase.code : CursorPhase → Byte
  | .at => 0 | .taken => 1 | .after => 2
def ContractState.code : ContractState → Byte
  | .none => 0 | .requested => 1 | .transition => 2 | .active => 3 | .base => 4
def SupplyState.code : SupplyState → Byte
  | .base => 0 | .transition => 1 | .ready => 2 | .dropped => 3
def LineFn.code : LineFn → Byte
  | .none => 0 | .parked => 1 | .moving => 2 | .crank => 3 | .release => 4 | .dockedLamp => 5 | .faultLamp => 6
  | .charging => 7 | .negotiating => 8
def LineResult.code : LineResult → Byte
  | .none => 0 | .placed => 1 | .duplicate => 2 | .unsupported => 3 | .pending => 4 | .nodeRefused => 5
def StableLevel.code : StableLevel → Byte
  | .none => 0 | .inactive => 1 | .active => 2
def LocateStep.code : LocateStep → Byte
  | .idle => 0 | .settling => 1 | .powering => 2 | .observing => 3 | .probing => 4 | .bringingIn => 5
def LocateResult.code : LocateResult → Byte
  | .none => 0 | .localized => 1 | .notReproduced => 2 | .abandoned => 3
def StallArea.code : StallArea → Byte
  | .none => 0 | .hostHeader => 1 | .partHeader => 2 | .globalIntent => 3 | .globalState => 4 | .nodeIntent => 5
  | .nodeState => 6 | .faultLog => 7 | .journal => 8 | .updatePool => 9

/-- CTRL kinds in the order of R182. -/
def Payload.kindCode : Payload → Nat
  | .probe => 0 | .resume _ => 1 | .read _ _ => 2 | .set _ _ => 3 | .segment _ _ => 4 | .supply _ _ _ _ => 5
  | .commit _ => 6 | .discard => 7 | .statusBlock _ => 8 | .release => 9

/-- A one-byte field whose value may be absent: FFH (R181). -/
def orFF (x : Option Byte) : Byte := x.getD 0xFF

/-- A two-byte field whose value may be absent: FFFFH (R181). -/
def orFFFF (x : Option W16) : List Byte := le16 (x.getD 0xFFFF)

/-! ### The CRC (R23) -/

/-- One bit of the CRC with x^16 + x^12 + x^5 + 1. -/
def crcBit (c : W16) : W16 := if c.msb then (c <<< 1) ^^^ 0x1021#16 else c <<< 1

/-- One byte, most significant bit first. -/
def crcByte (c : W16) (b : Byte) : W16 := Nat.repeat crcBit 8 (c ^^^ (b.zeroExtend 16 <<< 8))

/-- The register starts at FFFFH and there is no final inversion. -/
def crc16 (bs : List Byte) : W16 := bs.foldl crcByte 0xFFFF#16

/-- A message with its CRC, low byte first. -/
def withCrc (bs : List Byte) : List Byte := bs ++ le16 (crc16 bs)

/-! ### Link messages (R24, R25, R185) -/

/-- A set of positions, bit k−1 for position k. -/
def posMask (v : Per6 Bool) : Byte := flagByte (Pos.all.map v.get)

/-- SYNC, 17 bytes. -/
def syncBytes (stamp : W32) (gen : Byte) (answerList : Per6 Bool) (ctrls tiles : Nat) (target : Byte) (hold : Bool)
    (acks : Per6 Byte) : List Byte :=
  withCrc ([1] ++ le16 (stamp.extractLsb' 0 16) ++ [gen, posMask answerList, BitVec.ofNat 8 ctrls, BitVec.ofNat 8 tiles, target,
    bit hold] ++ Pos.all.map acks.get)

def SetItem.bytes (i : SetItem) : List Byte := [i.item.code, i.index] ++ le16 i.value

/-- The payload of a CTRL to position k. -/
def Payload.bytes (k : Pos) : Payload → List Byte
  | .probe => [posByte k]
  | .resume s => le16 s
  | .read o _ => [o]
  | .set items _ => items.flatMap SetItem.bytes
  | .segment s _ => [s.code]
  | .supply o c m _ => [o] ++ le16 c ++ [bit m]
  | .commit t => [t]
  | .discard => []
  | .statusBlock b => le64 b
  | .release => []

/-- CTRL: target, tag in bits 3-0 and kind in bits 7-4, payload length, payload. -/
def ctrlBytes (k : Pos) (tag : BitVec 4) (p : Payload) : List Byte :=
  let body := p.bytes k
  withCrc ([2, posByte k, BitVec.ofNat 8 (tag.toNat + 16 * p.kindCode), BitVec.ofNat 8 body.length] ++ body)

/-- The bytes of a long field, lowest first. -/
def bytesOf {w : Nat} (x : BitVec w) (n : Nat) : List Byte := (List.range n).map fun i => x.extractLsb' (8 * i) 8

/-- TILE, 520 bytes. -/
def tileBytes (tag : Byte) (index column row : Nat) (pixels : BitVec 4096) : List Byte :=
  withCrc ([3, tag] ++ le16 (BitVec.ofNat 16 index) ++ [BitVec.ofNat 8 column, BitVec.ofNat 8 row] ++ bytesOf pixels 512)

/-! ### Sections and words of the exchange window (R184) -/

def entryOffset (k : Pos) : Nat := 0x0A00 + 0x100 * (k.toNat - 1)

/-- The entry section's fields, offsets 08H to 9FH. -/
def Dev.entryFields (d : Dev) (k : Pos) : List Byte :=
  let e := d.entry k
  let c := e.caps
  let draws := (c.power.map (·.draws)).getD []
  let offers := c.supply.getD []
  [e.state.code, e.kind.code, e.revision, e.seg.code] ++ le16 e.vendor ++ le16 e.product ++ le32 e.serial
    ++ [flagByte [e.returned, e.imageLost, e.announced, d.le.degraded.get k],
        orFF (e.resume.map fun r => r.toState.code), e.attempts,
        flagByte [c.ident.isSome, c.keys.isSome, c.display.isSome, c.power.isSome, c.supply.isSome, c.lines.isSome,
          e.lostAt.isSome]]
    ++ le32 (e.lostAt.getD Config.absentLostStamp)
    ++ [d.le.miss.get k, 0] ++ le16 (d.le.winErr.get k) ++ le32 (d.le.cumErr.get k)
    ++ [orFF (c.ident.map fun i => flagByte [i.port, i.statusConsumer]), orFF (c.ident.map (·.declared.code))]
    ++ orFFFF (c.keys.map (·.count)) ++ [orFF (c.keys.map (·.indicators)), orFF (c.keys.map (·.depth))]
    ++ orFFFF (c.display.map (·.width)) ++ orFFFF (c.display.map (·.height)) ++ orFFFF (c.display.map (·.staging))
    ++ orFFFF (c.power.map (·.base)) ++ [orFF (c.power.map fun p => BitVec.ofNat 8 p.draws.length), 0]
    ++ (List.range 15).flatMap (fun i => orFFFF draws[i]?)
    ++ [orFF (c.supply.map fun s => BitVec.ofNat 8 s.length), 0]
    ++ (List.range 6).flatMap (fun i => orFFFF (offers[i]?.map (·.volt)) ++ orFFFF (offers[i]?.map (·.cur))
        ++ [orFF (offers[i]?.map fun o => bit o.ignitionOnly), 0])
    ++ [orFF c.lines] ++ zeros 39

/-- The applied section's fields, offsets A8H to FFH (R120). -/
def Dev.appliedFields (d : Dev) (k : Pos) : List Byte :=
  let p := d.ir.pos.get k
  let low (x : Option W16) : Byte := orFF (x.map fun v => v.extractLsb' 0 8)
  le32 p.appliedGen ++ [p.result.code, p.refused, bit p.stale, 0] ++ le32 p.stamp
    ++ orFFFF p.shadow.hold ++ [low p.shadow.mode, low p.shadow.displayBacklight, low p.shadow.keyBacklight, 0]
    ++ Ind.all.map (fun n => low (p.shadow.ind.get n)) ++ zeros 62

/-- The global applied section's fields, offsets 08H to 1FH (R109); before the first take the stamp is 0 (log 117). -/
def Dev.globalAppliedFields (d : Dev) : List Byte :=
  le32 d.ir.globalGen ++ [(if d.ir.globalRefused then AppliedResult.refused else AppliedResult.done).code, d.ir.globalField]
    ++ zeros 2 ++ le32 d.ir.globalStamp ++ zeros 12

/-- The chain section's fields, offsets 28H to 3FH. An absent standing fault is FFH in each of its three fields (R67, R181). -/
def Dev.chainFields (d : Dev) : List Byte :=
  [bit d.cm.shut.isSome, orFF (d.cm.shut.map posByte), d.cm.locate.step.code, d.cm.locate.result.code]
    ++ [Pos.p2, .p3, .p4, .p5, .p6].flatMap (fun k =>
      match (d.cm.segs.get k).standing with
      | none => [0xFF, 0xFF, 0xFF, 0]
      | some f => [f.code.code, orFF (f.sense.map SenseCode.code), bit f.localized, 0])

/-- The power section's fields, offsets 58H to 87H (R166). The mismatch flag is absent with its offer (R155, R181). -/
def Dev.powerFields (d : Dev) : List Byte :=
  let p := d.pcu
  [p.contract.code, orFF p.offer, orFF (p.offer.map fun _ => bit p.mismatch), p.refused, p.live.supply, bit p.live.ignition, p.live.enabled,
      bit p.live.dip]
    ++ le32 p.live.budget ++ [bit p.braced, 0] ++ le16 (BitVec.ofNat 16 p.clearCount) ++ [bit p.short, 0, 0, 0]
    ++ le32 (BitVec.ofNat 32 p.baseSum) ++ le32 (BitVec.ofInt 32 p.remainder)
    ++ Pos.all.flatMap (fun k => [p.grantDisplay.get k, p.grantKey.get k]) ++ le64 p.blockSent

/-- The lines section's fields, offsets 98H to BFH (R172). -/
def Dev.linesFields (d : Dev) : List Byte :=
  [bit d.slu.motion, bit d.slu.crank] ++ zeros 6 ++ Line.all.flatMap (fun n =>
    let l := d.slu.lines.get n
    [l.fn.code, l.result.code, orFF ((d.lineRole n).map LineRole.code), l.stable.code,
      orFF ((d.lineLevel n).map bit), orFF (l.role.map LineRole.code), orFF (l.level.map bit), 0])

/-- A slot's fields, offsets 08H to 3FH; an empty record has code NONE and number 0 (R80, R82). Its place, localized flag, dock
session number and stamp, of which no rule speaks, are 0 (the model's choice, log 116). -/
def slotFields (r : Option FaultRecord) : List Byte :=
  match r with
  | none => zeros 56
  | some r =>
    le32 r.number ++ [r.code.code, r.placeKind.code, r.place, bit r.localized, r.detail.code, 0]
      ++ le16 r.session ++ le32 r.stamp ++ zeros 40

/-- The record a slot holds now. -/
def FaultLog.inSlot (l : FaultLog) (i : Nat) : Option FaultRecord := l.records.find? fun r => slotOf r.number == i

/-- A journal entry, 16 bytes (R130). -/
def journalBytes (kind position direction seq : Byte) (detail : W16) (stamp : W32) : List Byte :=
  [kind, position, direction, seq] ++ le16 detail ++ zeros 2 ++ le32 stamp ++ zeros 4

def Item.bytes (i : Item) : List Byte := journalBytes i.kind.code i.position i.direction i.seq i.detail i.stamp

/-- An entry of kind NONE (R135): its direction, sequence and detail have no value (R181); position and stamp are 0 (log 66). -/
def emptyJournalEntry : List Byte := journalBytes 0 0 0xFF 0xFF 0xFFFF 0

/-- The outcome fields, offsets 30H to 3BH of an update record (R142). -/
def outcomeBytes (outcome : UpdateOutcome) (reason : UpdateReason) (split : Bool) (commits : Byte) (tiles : W16)
    (stamp : W32) : List Byte :=
  [outcome.code, reason.code, bit split, commits] ++ le16 tiles ++ zeros 2 ++ le32 stamp

/-- The offset of a header word (R184). -/
def HeaderWord.offset : HeaderWord → Nat
  | .dockState => 0x108 | .session => 0x10C | .counter c => 0x130 + 4 * c.toNat | .stallArea => 0x128
  | .dropped => 0x114 | .journalCount => 0x118 | .cursor => 0x11C | .hostTag => 0x120 | .torn => 0x124

/-- The cursor word: byte 0 the index or FFH, byte 1 the phase, without value while the cursor is NONE (R181). -/
def Dev.cursorWord (d : Dev) : List Byte :=
  match d.dtu.cursor with
  | none => [0xFF, 0xFF, 0, 0]
  | some c => [c.zeroExtend 8, d.dtu.phase.code, 0, 0]

/-- The host tag of the taken posting, 0 when none (R139, R184). -/
def Dev.hostTagWord (d : Dev) : W32 :=
  if d.dtu.phase = .taken then
    match d.dtu.posting, d.dtu.outcome with
    | some p, _ => p.hostTag
    | none, some o => o.hostTag
    | none, none => 0
  else 0

/-- The value of a header word. -/
def Dev.headerWord (d : Dev) : HeaderWord → List Byte
  | .dockState => le32 (BitVec.ofNat 32 d.sc.dock.code)
  | .session => le32 (d.sc.session.zeroExtend 32)
  | .counter c => le32 (d.xp.counters.get c)
  | .stallArea => [d.xp.stallArea.code, 0, 0, 0]
  | .dropped => le32 d.ic.dropped
  | .journalCount => [bit d.ic.invalid, 0, 0, 0]
  | .cursor => d.cursorWord
  | .hostTag => le32 d.hostTagWord
  | .torn => le32 d.ir.torn

/-! ### The initial writes of STARTING (R174, R176) -/

def genPair (g : W32) : List Byte := le32 g ++ le32 g

/-- The whole part header as STARTING writes it (R176). -/
def Dev.initialHeader (d : Dev) : List Byte :=
  le32 partId ++ le32 1 ++ d.headerWord .dockState ++ d.headerWord .session ++ zeros 8 ++ d.headerWord .journalCount
    ++ d.cursorWord ++ zeros 8 ++ [StallArea.none.code, 0, 0, 0] ++ zeros 4 ++ zeros 36 ++ zeros 172

/-- The whole global state record, each section with generation 1. -/
def Dev.initialGlobal (d : Dev) : List Byte :=
  genPair 1 ++ d.globalAppliedFields ++ genPair 1 ++ d.chainFields ++ le32 d.cm.log.total ++ zeros 12
    ++ genPair 1 ++ d.powerFields ++ zeros 8 ++ genPair 1 ++ d.linesFields ++ zeros 64

/-- A whole node state record. -/
def Dev.initialNode (d : Dev) (k : Pos) : List Byte :=
  genPair 1 ++ d.entryFields k ++ genPair 1 ++ d.appliedFields k

def emptySlot : List Byte := genPair 1 ++ slotFields none

/-- The n-th initial write: offset and bytes. Part header, global state record, six node state records, the fault log
in 4 writes, the journal in 32, the part-owned 16 bytes of the 64 update records. This order and these runs are the model's
choice (R174, log 89). -/
def Dev.initialWrite (d : Dev) (n : Nat) : Option (Nat × List Byte) :=
  if n = 0 then some (0x100, d.initialHeader)
  else if n = 1 then some (0x300, d.initialGlobal)
  else if n < 8 then (Pos.ofNat? (n - 1)).map fun k => (entryOffset k, d.initialNode k)
  else if n < 12 then some (0x1000 + 256 * (n - 8), (List.replicate 4 emptySlot).flatten)
  else if n < 44 then some (0x2000 + 256 * (n - 12), (List.replicate 16 emptyJournalEntry).flatten)
  else if n < 108 then some (0x4000 + 64 * (n - 44) + 0x30, outcomeBytes .none .none false 0 0 0 ++ zeros 4)
  else none

/-- How many initial writes there are. -/
def initialWrites : Nat := 108

end Sys2Proof.Machine
end

