-- ==== Sys2Proof/Machine/Operands.lean ====
section
/-! DEFINITION. The forms of the operands: ANSWER bytes, identity headers, intent records, update records. -/
namespace Sys2Proof.Machine

/-! ### Codes read (R182) -/

def Kind.ofCode (b : Byte) : Kind :=
  if b = 1 then .cradle else if b = 2 then .keyboard else if b = 3 then .display else if b = 4 then .keystrip else .unknown

def SenseCode.ofCode? (b : Byte) : Option SenseCode :=
  [SenseCode.clean, .noLoad, .openWire, .crossed, .shorted, .posToChassis, .negToBattery, .negToChassis,
    .posToBattery][b.toNat]?

def IndMode.ofCode? (b : Byte) : Option IndMode := [IndMode.off, .on, .slow, .fast][b.toNat]?
def DispMode.ofCode? (b : Byte) : Option DispMode := [DispMode.on, .blank, .off][b.toNat]?
def Pattern.ofCode? (b : Byte) : Option Pattern := [Pattern.short, .long, .triple][b.toNat]?
def SupplyState.ofCode? (b : Byte) : Option SupplyState := [SupplyState.base, .transition, .ready, .dropped][b.toNat]?
def Preference.ofCode? (b : Byte) : Option Preference :=
  [Preference.mostPower, .leastCurrent, .highestVoltage][b.toNat]?
def LineFn.ofCode? (b : Byte) : Option LineFn :=
  [LineFn.none, .parked, .moving, .crank, .release, .dockedLamp, .faultLamp, .charging, .negotiating][b.toNat]?

/-! ### ANSWER (R26, R185, R186) -/

def parseEntries : Nat → List Byte → Option (List InputEntry × List Byte)
  | 0, bs => some ([], bs)
  | n + 1, s :: k0 :: k1 :: dir :: bs =>
    (parseEntries n bs).map fun r => ({ seq := s, key := ofLe16 k0 k1, direction := dir } :: r.1, r.2)
  | _ + 1, _ => none

def parseCradle (present : Bool) (bs : List Byte) : Option (Option CradleFields × List Byte) :=
  if present then
    match bs with
    | fl :: sup :: en :: b0 :: b1 :: b2 :: b3 :: lv :: r =>
      some (some { ignition := fl.getLsbD 0, dip := fl.getLsbD 1, supply := sup, enabled := en
                   budget := ofLe32 b0 b1 b2 b3, levels := lv }, r)
    | _ => none
  else some (none, bs)

def parseSense (present : Bool) (bs : List Byte) : Option (Option Byte × List Byte) :=
  if present then
    match bs with
    | c :: r => some (some c, r)
    | [] => none
  else some (none, bs)

/-- A staging empty byte other than YES is read as NO (log 41). -/
def parseDisplay (present : Bool) (bs : List Byte) : Option (Option DisplayFields × List Byte) :=
  if present then
    match bs with
    | r0 :: r1 :: t :: e :: r =>
      some (some { received := ofLe16 r0 r1, lastTag := t, stagingEmpty := e == 1 }, r)
    | _ => none
  else some (none, bs)

/-- What follows the reply: entries, lost count, presence byte, the fields present, and nothing more. -/
def parseTail (pos flags reply : Byte) (payload : List Byte) (bs : List Byte) : Option Answer :=
  match bs with
  | [] => none
  | n :: bs =>
    if 4 < n.toNat then none
    else match parseEntries n.toNat bs with
      | some (entries, l0 :: l1 :: present :: r) =>
        match parseCradle (present.getLsbD 0) r with
        | none => none
        | some (cradle, r) =>
          match parseSense (present.getLsbD 1) r with
          | none => none
          | some (sense, r) =>
            match parseDisplay (present.getLsbD 2) r with
            | some (display, []) =>
              some { pos := pos, inSession := flags.getLsbD 0, held := flags.getLsbD 1, bufferEmpty := flags.getLsbD 2
                     tag := reply.extractLsb' 0 4, code := reply.extractLsb' 4 3, payload := payload, entries := entries
                     lost := ofLe16 l0 l1, cradle := cradle, sense := sense, display := display }
            | some (_, _ :: _) => none
            | none => none
      | some (_, _) => none
      | none => none

/-- A whole body. A type byte other than 4 fails as CRC does: the spec names no outcome for it (R186, log 90). -/
def parseBody : List Byte → Option Answer
  | 4 :: pos :: flags :: reply :: len :: bs =>
    if 16 < len.toNat then none
    else if bs.length < len.toNat then none
    else parseTail pos flags reply (bs.take len.toNat) (bs.drop len.toNat)
  | _ => none

/-- An ANSWER whose CRC and structure are good; none where either fails (R23, R186). -/
def parseAnswer (frame : List Byte) : Option Answer :=
  match frame.drop (frame.length - 2) with
  | [c0, c1] =>
    if crc16 (frame.take (frame.length - 2)) = ofLe16 c0 c1 then parseBody (frame.take (frame.length - 2)) else none
  | _ => none

/-- The fields the entry of a position requires are there (R186). -/
def Answer.fits (a : Answer) (e : Entry) : Bool :=
  (e.kind != .cradle || a.cradle.isSome) && (e.kind != .display || a.display.isSome) &&
    (!(e.caps.ident.any fun i => i.port) || a.sense.isSome)

/-- The good ANSWER of a position's window: CRC, structure, the position it names, the fields required (R23, R186). -/
def Dev.goodAnswer (d : Dev) (k : Pos) (frame : Option (List Byte)) : Option Answer :=
  match frame with
  | none => none
  | some bs => (parseAnswer bs).filter fun a => a.pos == posByte k && a.fits (d.entry k)

/-- The good ANSWER of the probe answer window. -/
def goodProbeAnswer (k : Pos) (frame : Option (List Byte)) : Option Answer :=
  match frame with
  | none => none
  | some bs => (parseAnswer bs).filter fun a => a.pos == posByte k

/-- A reply code as it acts on a message (R42, R182). -/
inductive ReplyCode where
  | done | busy | refused | mismatch
deriving DecidableEq, Repr

/-- The least payload of a DONE (R186, log 16). -/
def Payload.leastReply : Payload → Nat
  | .probe => 10
  | .read _ _ => 16
  | .resume _ => 0 | .set _ _ => 0 | .segment _ _ => 0 | .supply _ _ _ _ => 0
  | .commit _ => 0 | .discard => 0 | .statusBlock _ => 0 | .release => 0

/-- The valid reply an ANSWER carries for a message, if it does (R42). -/
def Answer.replyTo (a : Answer) (m : Msg) : Option ReplyCode :=
  if m.tag ≠ some a.tag then none
  else if a.code = 1 then (if a.payload.length < m.payload.leastReply then none else some .done)
  else if a.code = 2 then some .busy
  else if a.code = 3 then some .refused
  else if a.code = 4 then some .mismatch
  else none

/-- The identity header of a PROBE reply (R185). -/
def parseIdentity : List Byte → Option Identity
  | k :: v0 :: v1 :: p0 :: p1 :: rev :: s0 :: s1 :: s2 :: s3 :: _ =>
    some { kind := Kind.ofCode k, vendor := ofLe16 v0 v1, product := ofLe16 p0 p1, revision := rev
           serial := ofLe32 s0 s1 s2 s3 }
  | _ => none

/-! ### Intent records (R104, R105, R108, R184) -/

/-- A byte of a field run that begins at offset 08H of its record. -/
def at8 {w : Nat} (d : BitVec w) (offset : Nat) : Byte := d.extractLsb' (8 * (offset - 8)) 8
def at16 {w : Nat} (d : BitVec w) (offset : Nat) : W16 := d.extractLsb' (8 * (offset - 8)) 16
def at32 {w : Nat} (d : BitVec w) (offset : Nat) : W32 := d.extractLsb' (8 * (offset - 8)) 32

/-- The record the fields spell, or the refused field. -/
inductive Checked (α : Type) where
  | accepted (x : α)
  | refused (field : Byte)
deriving DecidableEq, Repr

/-- The first field of a list of checks that fails. -/
def firstBad (checks : List (Byte × Bool)) : Option Byte := (checks.find? fun c => !c.2).map (·.1)

def legalThreshold (t : W16) : Bool := t == 0 || t == 16 || t == 64 || t == 256 || t == 1024

/-- The checks of a global record, in record order. That the minimum voltage is not above the maximum is checked at the field the
free value of log 11 names, ahead of or with the range of the maximum. -/
def globalChecks (d : BitVec 320) : List (Byte × Bool) :=
  let hold := (at16 d 0x08).toNat
  let lo := (at16 d 0x0A).toNat
  let hi := (at16 d 0x0C).toNat
  let loOk := decide (100 ≤ lo ∧ lo ≤ 400)
  let hiOk := decide (100 ≤ hi ∧ hi ≤ 400)
  [(0x08, decide (100 ≤ hold ∧ hold ≤ 5000)), (0x0A, loOk && (decide (lo ≤ hi) || Config.voltageOrderNamesMaximum)),
    (0x0C, hiOk && (decide (lo ≤ hi) || !Config.voltageOrderNamesMaximum)),
    (0x0E, (Preference.ofCode? (at8 d 0x0E)).isSome), (0x10, decide ((at32 d 0x10).toNat ≤ 100000)),
    (0x14, legalThreshold (at16 d 0x14)),
    (0x18, (LineFn.ofCode? (at8 d 0x18)).isSome), (0x19, (LineFn.ofCode? (at8 d 0x19)).isSome),
    (0x1A, (LineFn.ofCode? (at8 d 0x1A)).isSome), (0x1B, (LineFn.ofCode? (at8 d 0x1B)).isSome)]

/-- The fields of a global record that has passed its checks. -/
def globalRecord (d : BitVec 320) : GlobalIntent :=
  let e := at16 d 0x16
  { holdLimit := at16 d 0x08, minVolt := at16 d 0x0A, maxVolt := at16 d 0x0C
    preference := (Preference.ofCode? (at8 d 0x0E)).getD .mostPower, minPower := at32 d 0x10, threshold := at16 d 0x14
    enables := Per9.ofFn fun c => e.getLsbD c.toNat
    functions := Per4.ofFn fun n => (LineFn.ofCode? (at8 d (0x18 + n.toNat))).getD .none
    locateSerial := at32 d 0x1C, chainSerial := at32 d 0x20, releaseSerial := at32 d 0x24
    block := d.extractLsb' 256 64 }

/-- R108 for the global record. -/
def checkGlobal (d : BitVec 320) : Checked GlobalIntent :=
  match firstBad (globalChecks d) with
  | some f => .refused f
  | none => .accepted (globalRecord d)

/-- The checks of a node record, in record order. -/
def nodeChecks (d : BitVec 112) : List (Byte × Bool) :=
  Ind.all.map (fun n => (BitVec.ofNat 8 (8 + n.toNat), (IndMode.ofCode? (at8 d (8 + n.toNat))).isSome)) ++
    [(0x10, decide ((at8 d 0x10).toNat ≤ 7)), (0x11, decide ((at8 d 0x11).toNat ≤ 15)),
      (0x12, (DispMode.ofCode? (at8 d 0x12)).isSome), (0x13, decide ((at8 d 0x13).toNat ≤ 1)),
      (0x15, (Pattern.ofCode? (at8 d 0x15)).isSome)]

def nodeRecord (d : BitVec 112) : NodeIntent :=
  { ind := Per8.ofFn fun n => (IndMode.ofCode? (at8 d (8 + n.toNat))).getD .off
    keyBacklight := at8 d 0x10, displayBacklight := at8 d 0x11
    mode := (DispMode.ofCode? (at8 d 0x12)).getD .on, motionExempt := at8 d 0x13 == 1
    attentionSerial := at8 d 0x14, pattern := (Pattern.ofCode? (at8 d 0x15)).getD .short }

/-- R108 for a node record. -/
def checkNode (d : BitVec 112) : Checked NodeIntent :=
  match firstBad (nodeChecks d) with
  | some f => .refused f
  | none => .accepted (nodeRecord d)

/-! ### Update records (R138, R184) -/

structure UpdateRecord where
  post : W16
  withdraw : W16
  next : Byte
  target : Byte
  x : W16
  y : W16
  w : W16
  h : W16
  source : W64
  stride : W32
  hostTag : W32
deriving DecidableEq, Repr

def updateRecord (d : BitVec 384) : UpdateRecord :=
  { post := d.extractLsb' 0 16, withdraw := d.extractLsb' 16 16, next := d.extractLsb' 32 8, target := d.extractLsb' 40 8
    x := d.extractLsb' 64 16, y := d.extractLsb' 80 16, w := d.extractLsb' 96 16, h := d.extractLsb' 112 16
    source := d.extractLsb' 128 64, stride := d.extractLsb' 192 32, hostTag := d.extractLsb' 224 32 }

/-- A list index: 0 to 63, or NONE (R138: 40H to FEH are NONE too). -/
def listIndex (b : Byte) : Option (BitVec 6) := if b.toNat < 64 then some (b.setWidth 6) else none

end Sys2Proof.Machine
end

