-- ==== Sys2Proof/Machine/Power.lean ====
section
/-! DEFINITION. Power Contract Unit operations (chapter 9): selection, the contract, the brace, allocation, the status block. -/
namespace Sys2Proof.Machine

/-! ### Selection (R153, R154) -/

def Dev.offers (d : Dev) : List Offer := (d.entry .p1).caps.supply.getD []

/-- Power of an offer in units of half a milliwatt: 50 mV times 10 mA is 500 uW. -/
def Offer.halfPower (o : Offer) : Nat := o.volt.toNat * o.cur.toNat

/-- The power is at or above the minimum power. -/
def Policy.met (p : Policy) (o : Offer) : Bool := 2 * p.minPower.toNat ≤ o.halfPower

/-- Lexicographic order: the first comparison that is not a tie decides. -/
def firstOf : List Ordering → Bool
  | [] => false
  | .lt :: _ => true
  | .gt :: _ => false
  | .eq :: r => firstOf r

/-- Offer a, of index i, stands earlier than offer b, of index j, in the order of the preference. -/
def Policy.better (p : Policy) (i : Nat) (a : Offer) (j : Nat) (b : Offer) : Bool :=
  match p.preference with
  | .mostPower =>
    firstOf [compare b.halfPower a.halfPower, compare a.cur.toNat b.cur.toNat, compare i j]
  | .leastCurrent =>
    match p.met a, p.met b with
    | true, false => true
    | false, true => false
    | true, true => firstOf [compare a.cur.toNat b.cur.toNat, compare a.volt.toNat b.volt.toNat, compare i j]
    | false, false => firstOf [compare b.halfPower a.halfPower, compare i j]
  | .highestVoltage =>
    firstOf [compare b.volt.toNat a.volt.toNat, compare b.cur.toNat a.cur.toNat, compare i j]

/-- An offer is eligible: enabled, not refused, its voltage within the policy. -/
def Pcu.eligible (p : Pcu) (i : Nat) (o : Offer) : Bool :=
  p.live.enabled.getLsbD i && !p.refused.getLsbD i &&
    decide (p.policy.minVolt.toNat ≤ o.volt.toNat) && decide (o.volt.toNat ≤ p.policy.maxVolt.toNat)

/-- The better of two picks. -/
def Policy.pickOf (p : Policy) (best : Option (Nat × Offer)) (c : Nat × Offer) : Option (Nat × Offer) :=
  match best with
  | none => some c
  | some b => if p.better c.1 c.2 b.1 b.2 then some c else some b

/-- The offers with their indices. -/
def Dev.indexedOffers (d : Dev) : List (Nat × Offer) := (List.range d.offers.length).zip d.offers

/-- The pick: the first eligible offer in the order of the preference. -/
def Dev.pick (d : Dev) : Option (Nat × Offer) :=
  (d.indexedOffers.filter fun c => d.pcu.eligible c.1 c.2).foldl d.pcu.policy.pickOf none

/-! ### The SUPPLY message -/

def Msg.isSupply (m : Msg) : Bool :=
  match m.payload with
  | .supply _ _ _ _ => true
  | .probe => false | .resume _ => false | .read _ _ => false | .set _ _ => false | .segment _ _ => false
  | .commit _ => false | .discard => false | .statusBlock _ => false | .release => false

def Payload.isSupply (p : Payload) : Bool := (Msg.new .pcu p).isSupply

/-- A SUPPLY has been sent at least once, or its result is on its way. -/
def Dev.supplySent (d : Dev) : Bool :=
  (d.queue .p1).any (fun m => m.isSupply && m.tag.isSome) || d.resultWaits .p1 fun _ p => p.isSupply

/-- Withdraw a SUPPLY not yet sent, offered ones too (R155, R158). -/
def Dev.withdrawSupply (d : Dev) : Dev :=
  let d := d.withdrawUnsent .p1 Msg.isSupply
  { d with le := { d.le with offers := d.le.offers.filter fun o => !(o.what == .supply) } }

/-- Withdraw every SUPPLY (R160). -/
def Dev.dropSupply (d : Dev) : Dev :=
  let d := d.withdraw .p1 Msg.isSupply
  { d with le := { d.le with offers := d.le.offers.filter fun o => !(o.what == .supply) } }

/-- The SUPPLY now wanted: the contract's request, or the base request. -/
def Dev.supplyPayload (d : Dev) : Option Payload :=
  if d.pcu.contract = .requested then
    match d.pcu.offer with
    | none => none
    | some i => (d.offers[i.toNat]?).map fun o => .supply i o.cur d.pcu.mismatch false
  else if d.pcu.contract = .base ∧ d.pcu.baseRequest = true then some (.supply 0 150 true true)
  else none

/-- Queue the SUPPLY, built from the state of this superframe; a full queue is offered it again, built anew (R155). -/
def Dev.queueSupply (d : Dev) : Dev :=
  match d.supplyPayload with
  | none => d
  | some p =>
    match d.submit .p1 (Msg.new .pcu p) with
    | (d', .queued) => d'
    | (d', .gone) => d'
    | (d', .full) => d'.keepOffer .p1 .supply

/-! ### The contract (R155 to R160) -/

/-- The contract takes a state and an offer. CONTRACT advances at a change of state, and at a change of offer while the
state stays REQUESTED (R166). -/
def Dev.setContract (c : ContractState) (offer : Option Byte) (mismatch : Bool) (d : Dev) : Dev :=
  let moved := d.pcu.contract ≠ c ∨ (c = .requested ∧ d.pcu.offer ≠ offer)
  let d' : Dev := { d with pcu := { d.pcu with contract := c, offer := offer, mismatch := mismatch } }
  if moved then d'.bump .contract else d'

/-- The contract enters BASE (R159). -/
def Dev.enterBase (d : Dev) : Dev :=
  let d := d.setContract .base none false
  let supplying := d.pcu.live.supply = 1 ∨ d.pcu.live.supply = 2
  if supplying ∧ d.pcu.refused.getLsbD 0 = false then
    ({ d with pcu := { d.pcu with baseRequest := true } } : Dev).queueSupply
  else d

/-- The contract requests an offer (R155). -/
def Dev.requestOffer (i : Nat) (o : Offer) (d : Dev) : Dev :=
  (d.setContract .requested (some (BitVec.ofNat 8 i)) (!d.pcu.policy.met o)).queueSupply

/-- Selection runs; running it clears selection owed. A SUPPLY not yet sent is withdrawn first (R158), and with it the base
request it made (R159). Without a pick the contract stays BASE then, and no new base request is made (log 80). -/
def Dev.select (d : Dev) : Dev :=
  let d := { d with pcu := { d.pcu with owed := false } }
  match d.pick with
  | some (i, o) =>
    if d.pcu.contract = .active ∧ d.pcu.offer = some (BitVec.ofNat 8 i) then d
    else
      let d := d.withdrawSupply
      ({ d with pcu := { d.pcu with baseRequest := false } } : Dev).requestOffer i o
  | none =>
    if d.pcu.contract ≠ .base then d.withdrawSupply.enterBase
    else if d.pcu.baseRequest = true ∧ d.supplySent = false then
      (d.withdrawSupply).onPcu fun p => { p with baseRequest := false }
    else d

/-- A cause of selection: run at once while the contract is settled, owed otherwise, without effect in NONE (R158, R159). -/
def Dev.supplyCause (d : Dev) : Dev :=
  match d.pcu.contract with
  | .none => d
  | .active => d.select
  | .base => if d.pcu.baseRequest && d.supplySent then { d with pcu := { d.pcu with owed := true } } else d.select
  | .requested => if d.supplySent then { d with pcu := { d.pcu with owed := true } } else d.select
  | .transition => { d with pcu := { d.pcu with owed := true } }

/-- The contract goes to NONE: its SUPPLY withdrawn, the timer 0, selection owed and base request clear; the refused set
is kept (R160). -/
def Dev.contractNone (d : Dev) : Dev :=
  let d := (d.setContract .none none false).dropSupply
  { d with pcu := { d.pcu with transTimer := 0, owed := false, baseRequest := false, resumed := false } }

/-- The contract offer joins the refused set and selection runs again (R156, R157). -/
def Dev.refuseOffer (d : Dev) : Dev :=
  let d := match d.pcu.offer with
    | none => d
    | some i => { d with pcu := { d.pcu with refused := d.pcu.refused ||| (1#8 <<< i.toNat) } }
  d.select

/-- The contract's offer is still eligible. -/
def Dev.offerEligible (d : Dev) : Bool :=
  match d.pcu.offer with
  | none => false
  | some i => match d.offers[i.toNat]? with
    | none => false
    | some o => d.pcu.eligible i.toNat o

/-- The result of the SUPPLY of a contract in REQUESTED (R156). REFUSED stands for MISMATCH too (log 14). -/
def Dev.contractResult (code : ResultCode) (d : Dev) : Dev :=
  if d.pcu.contract ≠ .requested then d
  else match code with
    | .done => (d.setContract .transition d.pcu.offer d.pcu.mismatch).onPcu fun p => { p with transTimer := 0 }
    | .refused => d.refuseOffer
    | .mismatch => d.refuseOffer
    | .busyTimeout => d.refuseOffer
    | .noReply => if d.pcu.owed = false ∧ d.offerEligible = true then d.queueSupply else d.select
    | .gone => d

/-- A selection owed until now runs (R158, R159). -/
def Dev.runOwed (d : Dev) : Dev := if d.pcu.owed then d.select else d

/-- The result of a base request (R159): a selection owed runs, and NO_REPLY queues the request again while the contract is
still BASE. -/
def Dev.baseResult (code : ResultCode) (d : Dev) : Dev :=
  let cleared : Dev := d.onPcu fun p => { p with baseRequest := false }
  match code with
  | .gone => cleared
  | .noReply =>
    let d := cleared.runOwed
    if d.pcu.contract = .base then (d.onPcu fun p => { p with baseRequest := true }).queueSupply else d
  | .done => cleared.runOwed
  | .refused => cleared.runOwed
  | .mismatch => cleared.runOwed
  | .busyTimeout => cleared.runOwed

/-! ### The live supply state (R153, R157, R158) -/

/-- The supply state reported acts on a contract in TRANSITION or ACTIVE (R157). An undefined code acts on nothing (R186). -/
def Dev.supplyReport (d : Dev) : Dev :=
  match d.pcu.contract, SupplyState.ofCode? d.pcu.live.supply with
  | .transition, some .ready =>
    let d := d.setContract .active d.pcu.offer d.pcu.mismatch
    if d.pcu.owed then d.select else d
  | .transition, some .dropped => d.select
  | .transition, some .base => d.select
  | .active, some .dropped => d.select
  | .active, some .base => d.select
  | _, _ => d

/-- The pick is better than the contract offer. -/
def Dev.pickBetter (d : Dev) : Bool :=
  match d.pick, d.pcu.offer with
  | some (i, o), some j => match d.offers[j.toNat]? with
    | some b => d.pcu.policy.better i o j.toNat b
    | none => true
  | some _, none => true
  | none, _ => false

/-- A change of the enabled set (R155, R158). -/
def Dev.enabledChanged (d : Dev) : Dev :=
  match d.pcu.contract with
  | .base => d.supplyCause
  | .active => if d.pickBetter then d.supplyCause else d
  | .none => d
  | .requested => d
  | .transition => d

/-- A SUPPLY not yet sent whose offer has left the enabled set is withdrawn and selection runs again (R155). -/
def Dev.checkUnsent (d : Dev) : Dev :=
  if d.pcu.contract = .requested ∧ d.supplySent = false then
    match d.pcu.offer with
    | none => d
    | some i => if d.pcu.live.enabled.getLsbD i.toNat then d else d.select
  else d

/-! ### Brace (R161) -/

/-- Either condition braces: every grant is 0 at once; while braced it returns the clear count to 0. -/
def Dev.braceCheck (d : Dev) : Dev :=
  if d.braceCondition then
    if d.pcu.braced then { d with pcu := { d.pcu with clearCount := 0 } }
    else { d with pcu := { d.pcu with
             braced := true, clearCount := 0, grantDisplay := Per6.const 0, grantKey := Per6.const 0 } }
  else d

/-- The live state a cradle ANSWER gives; the two bits of the enabled set that name no offer are ignored (R153, R181). -/
def CradleFields.live (f : CradleFields) : LiveSupply :=
  { ignition := f.ignition, enabled := f.enabled &&& 0x3F, supply := f.supply, budget := f.budget, dip := f.dip }

/-- A cradle ANSWER replaces the whole live state and acts on contract, selection and brace (R153, R157, R158, R161). A change
of the enabled set is judged by the contract state behind the supply report of the same ANSWER (log 81). -/
def Dev.takeSupply (f : CradleFields) (d : Dev) : Dev :=
  let before := d.pcu.live.enabled
  let d : Dev := { d with pcu := { d.pcu with live := f.live, resumed := false } }
  let d := d.supplyReport
  let d := if before = f.live.enabled then d else d.enabledChanged
  d.checkUnsent.braceCheck

/-! ### Allocation (R162, R163) -/

/-- An entry is counted in the budget (R162). One counted while HELD or LOST that resumes to CONFIGURING is not counted until
its session items return DONE again, as the state CONFIGURING is listed (log 88). -/
def Dev.counted (d : Dev) (k : Pos) : Bool :=
  let e := d.entry k
  k != .p1 && e.caps.power.isSome &&
    match e.state with
    | .active => true
    | .configuring => (d.cm.configuring.get k).sessionDone
    | .held => e.resume == some .configuring || e.resume == some .active
    | .lost => e.resume == some .configuring || e.resume == some .active
    | .vacant => false | .probed => false | .reading => false | .failed => false

/-- The extra draw of a level; level 0 draws 0. -/
def PowerCap.draw (p : PowerCap) (level : Nat) : Option Nat :=
  if level = 0 then some 0 else (p.draws[level - 1]?).map (·.toNat)

/-- The highest level, up to the requested one, whose extra draw fits. -/
def PowerCap.grant (p : PowerCap) (requested room : Nat) : Nat :=
  (List.range (requested + 1)).foldl
    (fun best l => match p.draw l with
      | some x => if x ≤ room then l else best
      | none => best) 0

/-- One pass of grants: for each position in order that takes one, the level, and what remains. -/
def grantPass (takes : Pos → Option PowerCap) (requested : Pos → Byte) (room : Nat) : Per6 Byte × Nat :=
  Pos.all.foldl
    (fun acc k => match takes k with
      | none => acc
      | some p =>
        let l := p.grant (requested k).toNat acc.2
        (acc.1.set k (BitVec.ofNat 8 l), acc.2 - (p.draw l).getD 0))
    (Per6.const 0, room)

/-- The sum of the bases of the counted entries. -/
def Dev.bases (d : Dev) : Nat :=
  ((Pos.all.filter d.counted).map fun k => ((d.entry k).caps.power.map fun p => p.base.toNat).getD 0).sum

/-- Allocation: bases first, then display backlights, then key backlights (R163). -/
def Dev.allocate (d : Dev) : Dev :=
  let sum := d.bases
  let budget := d.pcu.live.budget.toNat
  if budget < sum then
    let d' : Dev := { d with pcu := { d.pcu with
      baseSum := sum, remainder := (budget : Int) - sum, short := true
      grantDisplay := Per6.const 0, grantKey := Per6.const 0 } }
    if d.pcu.short then d' else d'.logFault .budgetShort .none 0 false .none
  else
    let display k := if d.counted k && (d.entry k).caps.display.isSome then (d.entry k).caps.power else none
    let key k := if d.counted k && (d.entry k).caps.keys.isSome then (d.entry k).caps.power else none
    let g := grantPass display d.pcu.reqDisplay.get (budget - sum)
    let h := grantPass key d.pcu.reqKey.get g.2
    { d with pcu := { d.pcu with
      baseSum := sum, remainder := h.2, short := false, grantDisplay := g.1, grantKey := h.1 } }

/-- Something allocation depends on has changed (R163). -/
def Dev.allocationDue (old new : Dev) : Bool :=
  (old.pcu.live.budget != new.pcu.live.budget) ||
  (old.pcu.reqDisplay != new.pcu.reqDisplay) || (old.pcu.reqKey != new.pcu.reqKey) ||
  (old.pcu.braced && !new.pcu.braced) || Pos.all.any fun k => old.counted k != new.counted k

/-! ### The head status block (R165) -/

def Payload.isStatusBlock : Payload → Bool
  | .statusBlock _ => true
  | .probe => false | .resume _ => false | .read _ _ => false | .set _ _ => false | .segment _ _ => false
  | .supply _ _ _ _ => false | .commit _ => false | .discard => false | .release => false

def Entry.isConsumer (e : Entry) : Bool := e.caps.ident.any fun i => i.statusConsumer

/-- A STATUS_BLOCK may be sent to the position now. -/
def Dev.takesBlock (d : Dev) (k : Pos) : Bool :=
  let e := d.entry k
  e.isConsumer && !e.releasing &&
    (e.state == .active || (e.state == .configuring && (d.cm.configuring.get k).sessionDone))

/-- A STATUS_BLOCK is queued, on offer, or its result on its way. -/
def Dev.blockOut (d : Dev) (k : Pos) : Bool :=
  d.outstanding k (fun _ p => p.isStatusBlock) || d.le.offers.any fun o => o.pos == k && o.what == .block

/-- The position takes the current block, which differs from what it holds. -/
def Dev.wantsBlock (d : Dev) (k : Pos) : Bool :=
  d.takesBlock k && d.pcu.delivered.get k != some d.currentBlock && !d.blockOut k

/-- Queue the current block where it differs; a full queue is tried again at the next superframe. -/
def Dev.sendBlock (k : Pos) (d : Dev) : Dev :=
  if d.wantsBlock k then (d.submit k (Msg.new .pcu (.statusBlock d.currentBlock))).1 else d

/-- Queue the current block, whatever the node holds; a full queue is offered it again, built anew. -/
def Dev.queueBlock (k : Pos) (d : Dev) : Dev :=
  match d.submit k (Msg.new .pcu (.statusBlock d.currentBlock)) with
  | (d', .queued) => d'
  | (d', .gone) => d'
  | (d', .full) => d'.keepOffer k .block

/-- A STATUS_BLOCK that ended without a reply is queued again with the current block, where one may be sent. -/
def Dev.resendBlock (k : Pos) (d : Dev) : Dev := if d.takesBlock k && !d.blockOut k then d.queueBlock k else d

/-- A STATUS_BLOCK not yet sent is withdrawn, one on offer too. -/
def Dev.withdrawBlock (k : Pos) (d : Dev) : Dev :=
  let d := d.withdrawUnsent k fun m => m.payload.isStatusBlock
  { d with le := { d.le with offers := d.le.offers.filter fun o => !(o.pos == k && o.what == .block) } }

/-- The delivered block of a position is UNKNOWN again. -/
def Dev.forgetBlock (k : Pos) (d : Dev) : Dev :=
  { d with pcu := { d.pcu with delivered := d.pcu.delivered.set k none } }

/-- The entry of a position goes HELD or LOST: a STATUS_BLOCK not yet sent is withdrawn, and the delivered block is UNKNOWN
(R165). So it is too where a HELD entry goes LOST, a DONE of a block in flight at the hold having come meanwhile. -/
def Dev.leaveBlock (k : Pos) (d : Dev) : Dev := (d.withdrawBlock k).forgetBlock k

end Sys2Proof.Machine
end

