-- ==== Sys2Proof/Machine/SideLines.lean ====
section
/-! DEFINITION. Side Line Unit operations (chapter 10): placing, sampling, debounce, the SET to the cradle. -/
namespace Sys2Proof.Machine

def Dev.onLine (n : Line) (f : LineState → LineState) (d : Dev) : Dev :=
  { d with slu := { d.slu with lines := d.slu.lines.modify n f } }

/-- A lower-numbered line has the same function (R168). -/
def Dev.lineDuplicate (d : Dev) (n : Line) : Bool :=
  Line.all.any fun m => m.toNat < n.toNat && (d.slu.lines.get m).fn == (d.slu.lines.get n).fn

/-- Entry 1 is not far enough for its lines to be placed (R168, step 3). -/
def Entry.linesPending (e : Entry) : Bool :=
  match e.state with
  | .vacant => true | .probed => true | .reading => true | .failed => true
  | .held => e.resume == some .probed || e.resume == some .reading
  | .lost => e.resume == some .probed || e.resume == some .reading
  | .configuring => false | .active => false

/-- The result placing gives a line (R168). -/
def Dev.placeResult (d : Dev) (n : Line) : LineResult :=
  let fn := (d.slu.lines.get n).fn
  if fn = .none then .none
  else if d.lineDuplicate n then .duplicate
  else if (d.entry .p1).linesPending then .pending
  else match (d.entry .p1).caps.lines with
    | none => .unsupported
    | some b => if lineCapable b n fn.isOutput then .placed else .unsupported

/-- The line's stable level is kept: PLACED with an input function, confirmed role INPUT or UNKNOWN (R170). -/
def LineState.sampled (l : LineState) : Bool :=
  l.isPlaced && l.fn.isInput && l.role != some .output

/-- A stable level takes a value; a change advances LINES (R170, log 34). -/
def Dev.setStable (n : Line) (v : StableLevel) (d : Dev) : Dev :=
  if (d.slu.lines.get n).stable = v then d else (d.onLine n fun l => { l with stable := v }).bump .lines

/-- A line that is not sampled has stable level NONE and run count 0 (R170). -/
def Dev.settleLine (n : Line) (d : Dev) : Dev :=
  if (d.slu.lines.get n).sampled then d
  else (d.setStable n .none).onLine n fun l => { l with candidate := none, run := 0 }

/-- Motion inhibit and crank computed anew; crank is handed to the Power Contract Unit (R170, R161). -/
def Dev.lineEffects (d : Dev) : Dev :=
  ({ d with slu := { d.slu with motion := d.slu.motionOf, crank := d.slu.crankOf } } : Dev).braceCheck

/-- After any change of a line's result, function or confirmed role. -/
def Dev.settleLines (d : Dev) : Dev := (Line.all.foldl (fun d n => d.settleLine n) d).lineEffects

/-- Placing (R168). -/
def Dev.placeLines (d : Dev) : Dev :=
  let results : Per4 LineResult := Per4.ofFn d.placeResult
  (Line.all.foldl (fun d n => d.onLine n fun l => { l with result := results.get n }) d).settleLines

/-- A sample of a line (R170). -/
def LineState.sample (active : Bool) (l : LineState) : LineState :=
  if l.candidate = some active then { l with run := min 20 (l.run + 1) }
  else { l with candidate := some active, run := 1 }

/-- The line levels of an ANSWER of position 1 (R170). -/
def Dev.takeLevels (levels : Byte) (d : Dev) : Dev :=
  Line.all.foldl (fun d n => d.onLine n fun l => if l.sampled then l.sample (levels.getLsbD n.toNat) else l) d

/-- The candidate as a stable level. -/
def LineState.target (l : LineState) : StableLevel :=
  match l.candidate with
  | some true => .active
  | some false => .inactive
  | none => .none

/-! ### The SET to the cradle (R169) -/

def Dev.lineRoleItem (d : Dev) (n : Line) : List SetItem :=
  match d.lineRole n with
  | none => []
  | some r =>
    if (d.slu.lines.get n).role = some r then []
    else [{ item := .lineRole, index := BitVec.ofNat 8 n.toNat, value := r.code.zeroExtend 16 }]

def Dev.lineLevelItem (d : Dev) (n : Line) : List SetItem :=
  match d.lineLevel n with
  | none => []
  | some h =>
    if (d.slu.lines.get n).level = some h then []
    else [{ item := .lineLevel, index := BitVec.ofNat 8 n.toNat, value := (bit h).zeroExtend 16 }]

/-- The differing items in order, at most six. -/
def Dev.lineItems (d : Dev) : List SetItem :=
  (Line.all.flatMap d.lineRoleItem ++ Line.all.flatMap d.lineLevelItem).take 6

/-- A SET of the Side Line Unit is in the queue, or its result on its way. -/
def Dev.lineSetOut (d : Dev) : Bool := d.outstanding .p1 fun b _ => b == .slu

/-- Send the SET where a role or level differs; a full queue is tried again at the next superframe, and a release pending
answers GONE at once (R40). -/
def Dev.sendLines (d : Dev) : Dev :=
  let e := d.entry .p1
  let ready := e.state == .active || (e.state == .configuring && (d.cm.configuring.get .p1).sessionDone)
  if ready && !d.lineSetOut && !d.lineItems.isEmpty then
    (d.submit .p1 (Msg.new .slu (.set d.lineItems 0))).1
  else d

/-- The line an item names. -/
def SetItem.line? (i : SetItem) : Option Line :=
  Line.all.find? fun n => i.index == BitVec.ofNat 8 n.toNat

/-- The confirmed value of an item becomes the value sent, or UNKNOWN. -/
def LineState.confirm (i : SetItem) (known : Bool) (l : LineState) : LineState :=
  if i.item = .lineRole then { l with role := if known then some (if i.value = 0 then .input else .output) else none }
  else if i.item = .lineLevel then { l with level := if known then some (i.value != 0) else none }
  else l

def Dev.confirmLines (items : List SetItem) (known : Bool) (d : Dev) : Dev :=
  items.foldl (fun d i => match i.line? with
    | some n => d.onLine n (LineState.confirm i known)
    | none => d) d

/-- Every line named in a refused SET whose result was PLACED takes NODE_REFUSED (R169). -/
def Dev.refuseLines (items : List SetItem) (d : Dev) : Dev :=
  items.foldl (fun d i => match i.line? with
    | some n => d.onLine n fun l => if l.isPlaced then { l with result := .nodeRefused } else l
    | none => d) d

/-- The result of a SET of the Side Line Unit (R169). REFUSED stands for MISMATCH too (log 14). A cradle back after a reset, which
holds no session, refuses a SET sent before the hold (R33): its lines take NODE_REFUSED by R169 though R168 has the results of
the last placing stand until the walk ends, which is the model's choice (log 120). -/
def Dev.linesResult (items : List SetItem) (code : ResultCode) (d : Dev) : Dev :=
  (match code with
  | .done => d.confirmLines items true
  | .refused => (d.confirmLines items true).refuseLines items
  | .mismatch => (d.confirmLines items true).refuseLines items
  | .noReply => d.confirmLines items false
  | .busyTimeout => d.confirmLines items false
  | .gone => d.confirmLines items false).settleLines

/-- Every confirmed role and level becomes UNKNOWN (R169). -/
def Dev.forgetLines (d : Dev) : Dev :=
  (Line.all.foldl (fun d n => d.onLine n fun l => { l with role := none, level := none }) d).settleLines

/-- Entry 1 goes HELD or LOST: a SET not yet sent is withdrawn and its items become UNKNOWN (R169); one that has been sent
waits in the frozen queue (R43). -/
def Dev.suspendLines (d : Dev) : Dev :=
  let mine (m : Msg) : Bool := m.sub == .slu
  let gone := (d.queue .p1).filter fun m => mine m && m.tag.isNone
  let d := d.withdrawUnsent .p1 mine
  gone.foldl (fun d m => match m.payload with
    | .set items _ => d.confirmLines items false
    | _ => d) d |>.settleLines

/-- A release covering entry 1 completes (R172). -/
def Dev.releaseLines (d : Dev) : Dev :=
  (Line.all.foldl (fun d n => (d.setStable n .none).onLine n fun l =>
      { l with candidate := none, run := 0, role := none, level := none }) d).placeLines

end Sys2Proof.Machine
end

