-- ==== Sys2Proof/Machine/Settings.lean ====
section
/-! DEFINITION. Intent Reconciler operations (chapter 6): derived values, the confirmed shadow, pushes, attention. -/
namespace Sys2Proof.Machine

/-! ### Derived values (R110) -/

def Kind.takesKeys (k : Kind) : Bool := k == .keyboard || k == .keystrip
def Kind.takesAttention (k : Kind) : Bool := k.takesKeys || k == .display

def lesser (a b : Byte) : Byte := if a.toNat ≤ b.toNat then a else b

def Dev.derivedMode (d : Dev) (k : Pos) : DispMode :=
  let t := (d.ir.pos.get k).taken
  if d.slu.motion && t.mode == .on && !t.motionExempt then .blank else t.mode

def Dev.derivedDisplay (d : Dev) (k : Pos) : Byte :=
  lesser (d.ir.pos.get k).taken.displayBacklight (d.pcu.grantDisplay.get k)

def Dev.derivedKey (d : Dev) (k : Pos) : Byte := lesser (d.ir.pos.get k).taken.keyBacklight (d.pcu.grantKey.get k)

/-- An item that takes no index (R33): the index byte has no value (R181, log 50). -/
def plainItem (c : ItemCode) (v : W16) : SetItem := { item := c, index := 0xFF, value := v }

def setItem (c : ItemCode) (v : Byte) : SetItem := plainItem c (v.zeroExtend 16)

/-- The derived items of a position other than ATTENTION, in the order of R113. -/
def Dev.derived (d : Dev) (k : Pos) : List SetItem :=
  let e := d.entry k
  let t := (d.ir.pos.get k).taken
  let count := ((e.caps.keys.map fun c => c.indicators.toNat).getD 0)
  [plainItem .holdLimit (d.sc.holdLimit + 250)]
    ++ (if e.kind = .display then
          [setItem .displayMode (d.derivedMode k).code, setItem .displayBacklight (d.derivedDisplay k)]
        else [])
    ++ (if e.kind.takesKeys then
          setItem .keyBacklight (d.derivedKey k) ::
            (Ind.all.filter fun n => n.toNat < count).map fun n =>
              { item := .indicator, index := BitVec.ofNat 8 n.toNat, value := (t.ind.get n).code.zeroExtend 16 }
        else [])

/-- The item of a pending attention (R110, R119). -/
def Dev.attentionItem (d : Dev) (k : Pos) : List SetItem :=
  match (d.ir.pos.get k).attention with
  | some a => if (d.entry k).kind.takesAttention then [setItem .attention a.pattern.code] else []
  | none => []

/-- A derived value falls below its intent (R110). -/
def Dev.clipped (d : Dev) (k : Pos) : Bool :=
  let t := (d.ir.pos.get k).taken
  let kind := (d.entry k).kind
  (kind == .display && (d.derivedMode k != t.mode || d.derivedDisplay k != t.displayBacklight)) ||
    (kind.takesKeys && d.derivedKey k != t.keyBacklight)

def Dev.appliedResult (d : Dev) (k : Pos) : AppliedResult := if d.clipped k then .clipped else .done

/-! ### The confirmed shadow (R112) -/

/-- The indicator an index names. -/
def indOf (b : Byte) : Ind := (Ind.all.find? fun n => b == BitVec.ofNat 8 n.toNat).getD .i7

def Shadow.value (s : Shadow) (i : SetItem) : Option W16 :=
  match i.item with
  | .holdLimit => s.hold
  | .displayMode => s.mode
  | .displayBacklight => s.displayBacklight
  | .keyBacklight => s.keyBacklight
  | .indicator => s.ind.get (indOf i.index)
  | .token => none | .attention => none | .lineRole => none | .lineLevel => none

def Shadow.put (i : SetItem) (v : Option W16) (s : Shadow) : Shadow :=
  match i.item with
  | .holdLimit => { s with hold := v }
  | .displayMode => { s with mode := v }
  | .displayBacklight => { s with displayBacklight := v }
  | .keyBacklight => { s with keyBacklight := v }
  | .indicator => { s with ind := s.ind.set (indOf i.index) v }
  | .token => s | .attention => s | .lineRole => s | .lineLevel => s

/-- The items take the values sent. -/
def Shadow.confirm (items : List SetItem) (s : Shadow) : Shadow :=
  items.foldl (fun s i => s.put i (some i.value)) s

/-- The items become UNKNOWN. -/
def Shadow.forget (items : List SetItem) (s : Shadow) : Shadow := items.foldl (fun s i => s.put i none) s

def Dev.onShadow (k : Pos) (f : Shadow → Shadow) (d : Dev) : Dev :=
  d.onIrPos k fun p => { p with shadow := f p.shadow }

/-- What the end of a SET of the Intent Reconciler does to the shadow (R112, R114). While the dock is RELEASING nothing: the
release sequence has abandoned every push, and the shadows are left as they stand until the releases complete (R117). -/
def Dev.learnShadow (k : Pos) (f : Shadow → Shadow) (d : Dev) : Dev :=
  if d.sc.dock = .releasing then d else d.onShadow k f

/-! ### Pushes (R113, R114, R116) -/

def Payload.isSet : Payload → Bool
  | .set _ _ => true
  | .probe => false | .resume _ => false | .read _ _ => false | .segment _ _ => false | .supply _ _ _ _ => false
  | .commit _ => false | .discard => false | .statusBlock _ => false | .release => false

/-- The differing items, a pending attention among them, in the order of R113. -/
def Dev.differing (d : Dev) (k : Pos) : List SetItem :=
  ((d.derived k).filter fun i => (d.ir.pos.get k).shadow.value i != some i.value) ++ d.attentionItem k

/-- A SET of the Intent Reconciler is with the Link Engine, or offered to it. -/
def Dev.settingOut (d : Dev) (k : Pos) : Bool :=
  d.outstanding k (fun b p => b == .ir && p.isSet) || d.le.offers.any fun o => o.pos == k && o.what == .push

/-- A push ends and its applied record is wanted. The end of a first apply is reported to the Chain Manager (R113, R118). A push
without a take of its own (R116, R117) puts its result over a REFUSED of that generation (the model's choice, log 107). -/
def Dev.endPush (k : Pos) (p : Push) (result : AppliedResult) (blocked : Option (List SetItem)) (d : Dev) : Dev :=
  let d := d.onIrPos k fun q =>
    { q with push := none, appliedGen := p.gen, result := result, refused := 0, blocked := blocked }
  let d := d.wantApplied k
  if p.first && result != .nodeRefused then
    { d with cm := { d.cm with configuring := d.cm.configuring.modify k fun c => { c with applyDone := true } } }
  else d

/-- ATTENTION stops being pending when a SET that carries it is queued (R114, R119). -/
def Dev.soundAttention (k : Pos) (items : List SetItem) (d : Dev) : Dev :=
  if items.any fun i => i.item == .attention then d.onIrPos k fun p => { p with attention := none } else d

/-- One step of a push (R113). -/
def Dev.pushStep (k : Pos) (d : Dev) : Dev :=
  match (d.ir.pos.get k).push with
  | none => d
  | some p =>
    if d.settingOut k then d
    else match d.differing k with
      | [] => d.endPush k p (d.appliedResult k) none
      | i :: is =>
        let items := (i :: is).take 6
        match d.submit k (Msg.new .ir (.set items 0)) with
        | (d', .queued) => d'.soundAttention k items
        | (d', .gone) => d'
        | (d', .full) => d'.keepOffer k .push

/-- A push begins and takes its first step. -/
def Dev.startPush (k : Pos) (gen : W32) (first : Bool) (d : Dev) : Dev :=
  (d.onIrPos k fun p => { p with push := some { gen := gen, first := first }, blocked := none }).pushStep k

/-- The settings of a position are to be re-derived (R116, log 33). -/
def Dev.rederiveDue (d : Dev) (k : Pos) : Bool :=
  let p := d.ir.pos.get k
  (d.entry k).state == .active && !(d.entry k).releasing && p.push.isNone && p.blocked.isNone &&
    d.sc.dock != .releasing && !(d.differing k).isEmpty

/-- A push whose entry goes HELD or LOST (R117, log 26). -/
def Dev.suspendPush (k : Pos) (d : Dev) : Dev :=
  let mine (m : Msg) : Bool := m.sub == .ir && m.payload.isSet
  let gone := (d.queue k).filter fun m => mine m && !m.inFlight
  let d := d.withdrawAfterFlight k mine
  let d : Dev := { d with le := { d.le with offers := d.le.offers.filter fun o => !(o.pos == k && o.what == .push) } }
  let d := gone.foldl (fun d m => match m.payload with
    | .set items _ => d.learnShadow k (Shadow.forget items)
    | _ => d) d
  d.onIrPos k fun p => { p with push := none }

/-- A release covering the position completes (R117). -/
def Dev.releaseSettings (k : Pos) (d : Dev) : Dev :=
  (d.onIrPos k fun p => { p with push := none, blocked := none, shadow := Shadow.unknown, result := .pending, refused := 0 }).wantApplied k

/-- The entry enters CONFIGURING, or returned is set on it (R112, R118). -/
def Dev.resetSettings (k : Pos) (d : Dev) : Dev :=
  (d.onIrPos k fun p => { p with
    push := none, blocked := none, shadow := Shadow.unknown, appliedGen := 0, result := .pending, refused := 0 }).wantApplied k

/-- The release sequence abandons every push (R98, R117). A SET already queued stays in its queue, and its result leaves the
shadow as it stands (log 58). -/
def Dev.abandonPushes (d : Dev) : Dev :=
  let d : Dev := { d with le := { d.le with offers := d.le.offers.filter fun o => !(o.what == .push) } }
  Pos.all.foldl (fun d k => d.onIrPos k fun p => { p with push := none }) d

/-- The result of a SET of the Intent Reconciler, its push's next step included (R114; in RELEASING R117). -/
def Dev.settingResult (k : Pos) (items : List SetItem) (code : ResultCode) (d : Dev) : Dev :=
  let refusePush (d : Dev) : Dev := match (d.ir.pos.get k).push with
    | some p => d.endPush k p .nodeRefused (some (d.derived k))
    | none => d
  match code with
  | .done => (d.learnShadow k (Shadow.confirm items)).pushStep k
  | .refused => refusePush d
  | .mismatch => refusePush d
  | .busyTimeout => refusePush (d.learnShadow k (Shadow.forget items))
  | .noReply => (d.learnShadow k (Shadow.forget items)).pushStep k
  | .gone => d.onIrPos k fun p => { p with push := none }

end Sys2Proof.Machine
end

