-- ==== Sys2Proof/Machine/Tiles.lean ====
section
/-! DEFINITION. Display Transfer Unit operations (chapter 8): batches, tiles, commits, waiting, outcomes. -/
namespace Sys2Proof.Machine

/-! ### The cut into tiles and batches (R143) -/

def Posting.columns (p : Posting) : Nat := p.w.toNat / 16
def Posting.tiles (p : Posting) : Nat := p.columns * (p.h.toNat / 16)

/-- The staging capacity of the target. -/
def Dev.staging (d : Dev) (k : Pos) : Nat := ((d.entry k).caps.display.map fun c => c.staging.toNat).getD 0

/-- The tiles of batch b. -/
def Posting.batchSize (p : Posting) (staging b : Nat) : Nat := min ((b + 1) * staging) p.tiles - b * staging

/-- The display place of tile i of the posting: column and row. -/
def Posting.place (p : Posting) (i : Nat) : Nat × Nat :=
  (p.x.toNat / 16 + i % p.columns, p.y.toNat / 16 + i / p.columns)

/-- The host address of tile i of the posting (R143): a sum that does not wrap at 64 bits (log 70). -/
def Posting.address (p : Posting) (i : Nat) : Nat :=
  p.source.toNat + 16 * (i / p.columns) * p.stride.toNat + 32 * (i % p.columns)

/-- The host addresses of the 16 pixel rows of tile i of the posting, at intervals of stride. -/
def Posting.rows (p : Posting) (i : Nat) : List Nat := (List.range 16).map fun r => p.address i + r * p.stride.toNat

/-- The posting has more than one batch. -/
def Posting.isSplit (p : Posting) (staging : Nat) : Bool := decide (staging < p.tiles)

def Dev.onPosting (f : Posting → Posting) (d : Dev) : Dev :=
  { d with dtu := { d.dtu with posting := d.dtu.posting.map f } }

/-- The ready list is emptied: reads on their way are discarded (R144). -/
def Dev.emptyReady (d : Dev) : Dev :=
  (d.onPosting fun p => { p with ready := [] }).onDtu fun t => { t with readyNo := t.readyNo + 1 }

/-- The next batch tag: advanced by 1, and once more where it equals the last committed tag the target reported. -/
def Dev.nextTag (d : Dev) (k : Pos) : Byte :=
  let t := d.dtu.tagCounter + 1
  if d.dtu.lastTag.get k = some t then t + 1 else t

/-- A batch begins (R143). Its bounds and SPLIT follow the staging capacity the target shows at that moment; with a larger one
than before the same batch may hold no tile, and then it never reaches its COMMIT (log 68). -/
def Dev.beginBatch (b : Nat) (d : Dev) : Dev :=
  match d.dtu.posting with
  | none => d
  | some p =>
    let t := d.nextTag p.target
    { d with dtu := { d.dtu with
      tagCounter := t
      readyNo := d.dtu.readyNo + 1
      posting := some { p with
        state := .gate, batch := b, size := p.batchSize (d.staging p.target) b, tag := t, sendPoint := 0, received := 0
        ready := [], timer := 0, began := d.le.stamp, committed := false, revalidate := false, checkReport := false
        split := p.isSplit (d.staging p.target) } } }

/-- The same batch begins again. -/
def Dev.restartBatch (d : Dev) : Dev :=
  match d.dtu.posting with
  | none => d
  | some p => d.beginBatch p.batch

/-! ### Outcomes (R142, R148) -/

/-- The rectangle is the whole display. -/
def Dev.wholeDisplay (d : Dev) (p : Posting) : Bool :=
  match (d.entry p.target).caps.display with
  | none => false
  | some c => p.x == 0 && p.y == 0 && p.w == c.width && p.h == c.height

/-- The taken posting ends; its outcome waits to be written. A DONE of the whole display clears image lost. A COMMIT still
queued or in flight stays where it is (log 98). -/
def Dev.endPosting (outcome : UpdateOutcome) (reason : UpdateReason) (d : Dev) : Dev :=
  match d.dtu.posting with
  | none => d
  | some p =>
    let d' : Dev := { d with dtu := { d.dtu with
      posting := none, readyNo := d.dtu.readyNo + 1
      outcome := some { outcome := outcome, reason := reason, split := p.split, tilesSent := p.tilesSent, commits := p.commits
                        stamp := d.le.stamp, serial := p.post, hostTag := p.hostTag, fieldsWritten := false } } }
    if outcome = .done ∧ d.wholeDisplay p then d'.onEntry p.target fun e => { e with imageLost := false } else d'

def Dev.queueDiscard (k : Pos) (d : Dev) : Dev := d.send k .dtu .discard

/-- The posting fails and DISCARD is queued to its target, behind a COMMIT of it that is still there (log 98). -/
def Dev.failPosting (reason : UpdateReason) (d : Dev) : Dev :=
  match d.dtu.posting with
  | none => d
  | some p => (d.endPosting .failed reason).queueDiscard p.target

/-! ### The display's reports (R145, R146) -/

/-- A commit ends: the next batch begins, or the posting is DONE. -/
def Dev.endCommit (stagingEmpty : Bool) (d : Dev) : Dev :=
  match d.dtu.posting with
  | none => d
  | some p =>
    let d := d.withdraw p.target fun m => m.payload == .commit p.tag
    let d := d.onPosting fun p => { p with commits := satInc p.commits, refusals := 0, timer := 0 }
    if (p.batch + 1) * d.staging p.target ≥ p.tiles then d.endPosting .done .none
    else
      let d := d.beginBatch (p.batch + 1)
      if stagingEmpty then d.onPosting fun p => { p with state := .sending, timer := 0 }
      else if d.holds p.target fun m => m.payload == .discard then d
      else d.queueDiscard p.target

/-- Every tile of the batch is held in the node's staging: COMMIT is queued (R145, R146). -/
def Dev.enterCommitting (d : Dev) : Dev :=
  match d.dtu.posting with
  | none => d
  | some p => (d.onPosting fun p => { p with state := .committing }).send p.target .dtu (.commit p.tag)

/-- A received count r' in SENDING (R145). In a batch without tiles nothing can rise, and it stays in SENDING (log 68). -/
def Dev.takeReceived (r : Nat) (d : Dev) : Dev :=
  match d.dtu.posting with
  | none => d
  | some p =>
    if r < p.received then d.restartBatch
    else if p.received < r ∧ r ≤ p.sendPoint then
      let d := d.onPosting fun p => { p with received := r, timer := 0 }
      if r = p.size then d.enterCommitting else d
    else d

/-- The display fields of an ANSWER of position k (R143, R145, R146, R149). -/
def Dev.takeDisplay (k : Pos) (f : DisplayFields) (d : Dev) : Dev :=
  let d : Dev := { d with dtu := { d.dtu with lastTag := d.dtu.lastTag.set k (some f.lastTag) } }
  match d.dtu.posting with
  | none => d
  | some p =>
    if p.target ≠ k then d
    else match p.state with
      | .gate =>
        if p.began = d.le.stamp then d
        else if f.stagingEmpty then d.onPosting fun p => { p with state := .sending, timer := 0 }
        else if d.holds k fun m => m.payload == .discard then d
        else d.queueDiscard k
      | .sending => d.takeReceived f.received.toNat
      | .committing =>
        if f.lastTag = p.tag then d.endCommit f.stagingEmpty
        else if p.checkReport then d.restartBatch
        else d
      | .waiting => d

/-- The result of a COMMIT (R146). REFUSED stands for MISMATCH too (log 14). -/
def Dev.commitResult (k : Pos) (tag : Byte) (code : ResultCode) (d : Dev) : Dev :=
  match d.dtu.posting with
  | none => d
  | some p =>
    if p.target ≠ k ∨ p.tag ≠ tag ∨ p.committed = true ∨ (p.state ≠ .committing ∧ p.state ≠ .waiting) then d
    else
      let refused : Dev :=
        if p.refusals + 1 ≥ 3 then d.failPosting .noProgress
        else
          let d := d.onPosting fun p => { p with refusals := p.refusals + 1 }
          if p.state = .committing then d.restartBatch else d
      match code with
      | .done => d.onPosting fun p => { p with committed := true }
      | .noReply => if p.state = .committing then d.send k .dtu (.commit tag) else d
      | .refused => refused
      | .mismatch => refused
      | .busyTimeout => d.failPosting .noProgress
      | .gone => d

/-! ### Overtaken postings (R149, R150) -/

/-- The posting waits: no tile is handed on, COMMIT and DISCARD not yet sent are withdrawn. -/
def Dev.waitPosting (k : Pos) (d : Dev) : Dev :=
  match d.dtu.posting with
  | none => d
  | some p =>
    if p.target ≠ k then d
    else
      let d := (d.onPosting fun p => { p with state := .waiting }).emptyReady
      d.withdrawUnsent k fun m => m.sub == .dtu

/-- The target has resumed to ACTIVE. -/
def Dev.resumePosting (k : Pos) (d : Dev) : Dev :=
  match d.dtu.posting with
  | none => d
  | some p =>
    if p.target ≠ k ∨ p.state ≠ .waiting then d
    else if p.committed then d.onPosting fun p => { p with state := .committing, checkReport := true }
    else d.restartBatch

/-- Returned is set on the target. -/
def Dev.returnPosting (k : Pos) (d : Dev) : Dev :=
  let d := d.waitPosting k
  match d.dtu.posting with
  | none => d
  | some p =>
    if p.target ≠ k then d else d.onPosting fun p => { p with revalidate := true, committed := false }

/-- A release covering the target is requested: the posting stops where it stands. -/
def Dev.stopPosting (k : Pos) (d : Dev) : Dev :=
  match d.dtu.posting with
  | none => d
  | some p => if p.target ≠ k then d else (d.onPosting fun p => { p with state := .waiting }).emptyReady

/-- The release completes: FAILED with NODE_GONE. -/
def Dev.releasePosting (k : Pos) (d : Dev) : Dev :=
  match d.dtu.posting with
  | none => d
  | some p => if p.target ≠ k then d else d.endPosting .failed .nodeGone

/-! ### Validation (R141) -/

/-- The checks of rectangle and stride against a display section. -/
def rectFault (c : DisplayCap) (x y w h : W16) (stride : W32) : Option UpdateReason :=
  let aligned (v : W16) : Bool := v.toNat % 16 == 0
  if w = 0 ∨ h = 0 ∨ !(aligned x && aligned y && aligned w && aligned h) ∨
      c.width.toNat < x.toNat + w.toNat ∨ c.height.toNat < y.toNat + h.toNat then some .badRect
  else if stride.toNat < 2 * w.toNat then some .badStride
  else none

/-- The target is a display in use, or HELD or LOST with another resume state than FAILED. -/
def Entry.isTarget (e : Entry) : Bool :=
  e.state != .vacant && e.state != .failed && !(e.isAway && e.resume == some .failed) && e.kind == .display

/-- The reason a posting fails validation, or none. -/
def Dev.postingFault (d : Dev) (k : Pos) (x y w h : W16) (stride : W32) : Option UpdateReason :=
  if !(d.entry k).isTarget then some .noDisplay
  else match (d.entry k).caps.display with
    | none => some .noDisplay
    | some c => rectFault c x y w h stride

/-- A returned target has reached ACTIVE: the posting is validated again (R149). -/
def Dev.revalidatePosting (k : Pos) (d : Dev) : Dev :=
  match d.dtu.posting with
  | none => d
  | some p =>
    if p.target ≠ k ∨ p.state ≠ .waiting ∨ p.revalidate = false then d
    else match d.postingFault k p.x p.y p.w p.h p.stride with
      | some r => d.endPosting .failed r
      | none => d.restartBatch

/-- A returned target has gone FAILED (R149). -/
def Dev.targetFailed (k : Pos) (d : Dev) : Dev :=
  match d.dtu.posting with
  | none => d
  | some p => if p.target ≠ k then d else d.endPosting .failed .noDisplay

end Sys2Proof.Machine
end

