-- ==== Sys2Proof/Machine/Table.lean ====
section
/-! DEFINITION. The node table's shared changes (chapters 1 and 5): release and its completion, undock, fresh dock, entries coming into use, held, lost and resumed. -/
namespace Sys2Proof.Machine

/-! ### Small changes of discovery and locate -/

def Dev.setDiscovery (s : Discovery) (d : Dev) : Dev := { d with cm := { d.cm with discovery := s } }

def Discovery.isStep : Discovery → Bool
  | .powering => true | .observing => true | .probing => true
  | .stopped => false | .waiting => false | .complete => false | .deferred => false | .faulted => false
  | .givenUp => false | .shut => false | .locating => false

/-- Discovery waits at the frontier, not in a retry. -/
def Dev.enterWaiting (d : Dev) : Dev :=
  { d with cm := { d.cm with discovery := .waiting, isRetry := false, offWait := false, codeRead := none } }

/-- Locate, where it runs, ends with result ABANDONED (R79). -/
def Dev.abandonLocate (d : Dev) : Dev :=
  if d.cm.locate.step = .idle then d
  else { d with cm := { d.cm with locate := { d.cm.locate with step := .idle, result := .abandoned } } }

/-- A release for another cause abandons locate; discovery goes where the release puts it (R79). -/
def Dev.overtakeLocate (d : Dev) : Dev :=
  if d.cm.discovery = .locating then d.abandonLocate.enterWaiting else d

/-- Discovery stops: timers and retry count 0, no SEGMENT ON owed, locate abandoned (R49, R79). -/
def Dev.stopDiscovery (d : Dev) : Dev :=
  let d := d.abandonLocate
  { d with cm := { d.cm with
    discovery := .stopped, stepTimer := 0, frontierTimer := 0, retry := 0, isRetry := false, offWait := false
    codeRead := none, recheck := false, onOwed := Per6.const false } }

/-- COMPLETE, with or without a re-check timer; the initial pass is over (R49, R62). -/
def Dev.enterComplete (recheck : Bool) (d : Dev) : Dev :=
  { d with cm := { d.cm with
    discovery := .complete, recheck := recheck, frontierTimer := 0, initialPass := false, isRetry := false
    offWait := false, codeRead := none } }

/-- FAULTED, or GIVEN_UP after the eighth retry; the retry count is kept when the step was a retry (R63, R69). -/
def Dev.enterFaulted (d : Dev) : Dev :=
  let spent := d.cm.isRetry && decide (8 ≤ d.cm.retry)
  { d with cm := { d.cm with
    discovery := if spent then .givenUp else .faulted
    retry := if d.cm.isRetry then d.cm.retry else 0
    frontierTimer := 0, initialPass := false, isRetry := false, offWait := false, codeRead := none } }

def Dev.setSegState (k : Pos) (s : SegState) (d : Dev) : Dev := d.onEntry k fun e => { e with seg := s }

def Dev.sendSegment (k : Pos) (s : SegSetting) (use : SegUse) (d : Dev) : Dev := d.send k .cm (.segment s use)

/-! ### Fresh dock and undock completion (R86, R89) -/

def Msg.isScSession (m : Msg) : Bool := m.sub == .sc && m.payload.isSession

/-- The part's own PROBE of a block at a position is with the Link Engine. -/
def Dev.probeOut (d : Dev) (k : Pos) (b : Block) : Bool := d.outstanding k fun s p => s == b && p == .probe

/-- PROBE(1) is queued and its 10-superframe interval begins (R87). -/
def Dev.queueProbe1 (d : Dev) : Dev :=
  (d.send .p1 .sc .probe).onSc fun s => { s with probeTimer := 0 }

/-- The next dock session number: FFFFH is followed by 0001H (R86). -/
def nextSession (n : W16) : W16 := if n = 0xFFFF then 1 else n + 1

/-- A fresh dock begins (R86, R87, R67, R49). No rule says which state discovery has in BRINGUP: it stays STOPPED until
the dock is DOCKED (log 53). -/
def Dev.freshDock (d : Dev) : Dev :=
  let d : Dev := { d with
    sc := { d.sc with
      session := nextSession d.sc.session, announced := false, noCradle := false, bringupTimer := 0
      probeAnswered := false }
    pub := { d.pub with session := true }
    cm := { d.cm with segs := Per6.const SegRecord.init, shut := none, initialPass := true }
    pcu := { d.pcu with refused := 0 } }
  (d.setDock .bringup).queueProbe1

def UndockReason.detail (r : UndockReason) : W16 := r.code.zeroExtend 16

/-- The state that follows an undock: no fresh dock begins once the Exchange Port has asked for the end (R89, R97). The
sense level is the one kept from the last sample taken, which may be the previous superframe's (log 56). -/
def Dev.undockTarget (d : Dev) (f : Following) : DockState :=
  let fresh : DockState := if d.xp.part = .stopping then .undocked else .bringup
  match f with
  | .bySense => if d.sc.sense = some true then fresh else .undocked
  | .bringup => fresh
  | .undocked => .undocked
  | .released => .released

/-- A disable that waits for the undock, and a sequence the Exchange Port asked for, are reported ended (R97, R99). -/
def Dev.reportEnd (d : Dev) : Dev :=
  let asked := d.sc.disableWaits || (match d.sc.sequence with | some q => q.forDisable | none => false)
  { d with sc := { d.sc with sequence := none, disableWaits := false, endReport := d.sc.endReport || asked } }

/-- The release of an undock has completed (R89, steps 3 and 4). -/
def Dev.completeUndock (u : Undock) (d : Dev) : Dev :=
  let d := match u.reason with
    | some r => if d.sc.announced then d.stageMarker .undock 0 r.detail else d
    | none => d
  let d := d.reportEnd.onSc fun s => { s with announced := false, undock := none, releasedTimer := 0 }
  match d.undockTarget u.following with
  | .bringup => d.freshDock
  | t => d.setDock t

/-! ### Release (R16, R17, R18) -/

/-- What the Chain Manager hands on when a covered entry goes VACANT (R18), in that order. -/
def Dev.vacate (k : Pos) (d : Dev) : Dev :=
  let announced := (d.entry k).announced
  let d := d.closeInput k
  let d := if announced then d.stageMarker .nodeRemoved (posByte k) 0xFFFF else d
  let d := (d.releasePosting k).releaseSettings k |>.forgetBlock k
  let d := if k = .p1 then
      d.contractNone.onPcu fun p => { p with live := LiveSupply.cleared }
    else d
  { d with
    le := { d.le with
      miss := d.le.miss.set k 0, winErr := d.le.winErr.set k 0, cumErr := d.le.cumErr.set k 0
      degraded := d.le.degraded.set k false, reached := d.le.reached.set k false }
    cm := { d.cm with
      walks := d.cm.walks.set k none, configuring := d.cm.configuring.set k Configuring.init
      onOwed := d.cm.onOwed.set k false } }

/-- The entry takes the identity of a PROBE answer and goes PROBED as a new node (R6). -/
def Dev.enterProbed (k : Pos) (id : Identity) (d : Dev) : Dev :=
  (d.onEntry k fun e => { e with
    state := .probed, kind := id.kind, vendor := id.vendor, product := id.product, revision := id.revision
    serial := id.serial, returned := false, imageLost := false, announced := false, resume := none, lostAt := none
    attempts := 0 }).schedule k

/-- A discovery step has brought a node in: SEGMENT ON to the node ahead, the standing fault ends, WAITING (R53, R71). The
standing fault ends at a step of any kind (log 62). -/
def Dev.broughtIn (k : Pos) (d : Dev) : Dev :=
  let d := match k.prev? with
    | some j => d.sendSegment j .on .bringOn
    | none => d
  let d := d.onSeg k fun g => { g with standing := none, cleanRun := 0 }
  d.enterWaiting.onCm fun c => { c with retry := 0 }

/-- Work in progress on an entry that goes HELD or LOST is suspended. -/
def Dev.suspend (k : Pos) (d : Dev) : Dev :=
  let d := ((d.suspendPush k).waitPosting k).leaveBlock k
  if k = .p1 then d.suspendLines else d

/-- The entry goes HELD or LOST with the state it leaves as its resume state. -/
def Entry.away (e : Entry) (s : EntryState) (l : Live) (lostAt : Option W32) : Entry :=
  { e with state := s, resume := some l, lostAt := lostAt, attempts := 0 }

/-- An entry in use, or being brought in, with no release pending, goes HELD or LOST. -/
def Dev.sendAway (s : EntryState) (lostAt : Option W32) (k : Pos) (d : Dev) : Dev :=
  match (d.entry k).state.live? with
  | none => d
  | some l => if (d.entry k).releasing then d else (d.onEntry k fun e => e.away s l lostAt).suspend k

/-- In HOLDING a new entry goes HELD in the same step (R54). -/
def Dev.holdNew (k : Pos) (d : Dev) : Dev :=
  if d.sc.dock = .holding then (d.sendAway .held none k).unschedule k else d

/-- The answer held through the release is taken. The step that asked for it, where it stands at its position still, brings
the node in; an answer that came late leaves discovery as it is (R12, R54). -/
def Dev.takeHeld (k : Pos) (id : Identity) (d : Dev) : Dev :=
  let step := d.cm.discovery == .probing && d.frontier == k.toNat && d.sc.dock == .docked
  let d := d.enterProbed k id
  (if step then d.broughtIn k else d).holdNew k

/-- A release from `first` on leaves discovery as it stands: its first entry lies behind the frontier (R64), or the chain is
shut, which a chain retry or a fresh dock alone ends (R72, R73; against the table of R64, log 61). -/
def Dev.leavesDiscovery (first : Pos) (d : Dev) : Bool := decide (d.frontier < first.toNat) || d.cm.discovery == .shut

/-- What a completed release leaves to do while the release sequence runs: an answer held through it is taken (R12), and
discovery stays STOPPED (R64). -/
def Dev.afterReleaseInSequence (a : AfterRelease) (d : Dev) : Dev :=
  match a with
  | .take k id => d.takeHeld k id
  | .keep => d | .deferred => d | .waiting => d | .faulted => d | .faultTimer => d

/-- Where discovery goes when a release from `first` on has completed (R64). -/
def Dev.afterRelease (first : Pos) (a : AfterRelease) (d : Dev) : Dev :=
  match a with
  | .keep => d
  | .deferred =>
    if d.leavesDiscovery first then d
    else d.enterWaiting.onCm fun c => { c with discovery := .deferred, frontierTimer := 0, retry := 0 }
  | .waiting => if d.leavesDiscovery first then d else d.enterWaiting
  | .faulted => if d.leavesDiscovery first then d else d.enterFaulted
  | .faultTimer => d
  | .take k id => d.takeHeld k id

/-- The covered entries of the pending release. -/
def Dev.covered (d : Dev) : List Pos := Pos.all.filter fun k => (d.entry k).releasing

/-- The pending release completes (R18); an undock that waits for it completes too (R89); an entry 1 made VACANT outside
an undock ends the session (R90, R96). -/
def Dev.completeRelease (d : Dev) : Dev :=
  match d.cm.release with
  | none => d
  | some r =>
    let covered := d.covered
    let d : Dev := { d with cm := { d.cm with release := none } }
    let d := covered.foldl (fun d k => d.onEntry k fun e => { Entry.vacant with releasing := e.releasing, announced := e.announced }) d
    let d := covered.foldl (fun d k => (d.vacate k).onEntry k fun _ => Entry.vacant) d
    let d := if covered.contains .p1 then d.releaseLines else d
    match d.sc.undock with
    | some u => d.completeUndock u
    | none =>
      if covered.contains .p1 && (d.sc.dock == .docked || d.sc.dock == .holding) then
        (d.stopDiscovery.onSc fun s => { s with pass := none }).completeUndock
          { reason := some .expired, following := .bySense }
      else if d.sc.sequence.isSome then d.afterReleaseInSequence r.after
      else d.afterRelease r.first r.after

/-- One entry joins a release (R16). -/
def Dev.coverEntry (k : Pos) (d : Dev) : Dev :=
  let d := (d.onEntry k fun e => { e with releasing := true }).unschedule k
  let d := (d.flush k).stopPosting k
  { d with le := { d.le with lossDue := d.le.lossDue.set k false } }

/-- The pending release after a request from `first` on, with RELEASE to `targets` (R16, R17). What follows its completion is what
the cause of the request with the first entry further ahead asks for (the model's choice, log 101). -/
def joinRelease (old : Option Release) (first : Pos) (targets : List Pos) (after : AfterRelease) : Release :=
  match old with
  | none => { first := first, waits := Per6.ofFn fun k => targets.contains k, after := after }
  | some r =>
    { first := if first.toNat < r.first.toNat then first else r.first
      waits := Per6.ofFn fun k => r.waits.get k || targets.contains k
      after := if first.toNat < r.first.toNat then after else r.after }

def Release.isWaiting (r : Release) : Bool := Pos.all.any r.waits.get

/-- Entries join a release from `first` on, with RELEASE messages to a set of positions (R16, R17). -/
def Dev.cover (joining : List Pos) (first : Pos) (messages : List Pos) (after : AfterRelease) (d : Dev) : Dev :=
  let targets := joining.filter messages.contains
  let r := joinRelease d.cm.release first targets after
  let d := joining.foldl (fun d k => d.coverEntry k) d
  let d : Dev := { d with cm := { d.cm with release := some r } }
  let d := targets.foldl (fun d k => d.send k .cm .release) d
  let d := if d.cm.discovery.isStep && decide (first.toNat < d.frontier) then d.enterWaiting else d
  if r.isWaiting then d else d.completeRelease

/-- A release of entries first..last is requested, with RELEASE messages to a set of positions (R16, R17). -/
def Dev.requestRelease (first : Pos) (messages : List Pos) (after : AfterRelease) (d : Dev) : Dev :=
  let joining := (behind first).filter fun k => !(d.entry k).isVacant && !(d.entry k).releasing
  if joining.isEmpty then d else d.cover joining first messages after

/-! ### Undock requested (R89) -/

/-- An undock is performed: at most once for a session. Its release covers entry 1 also where no entry is in the table, so
what is queued to position 1 ends GONE (R43, R89, R99). -/
def Dev.undock (reason : Option UndockReason) (following : Following) (messages : List Pos) (d : Dev) : Dev :=
  if d.sc.undock.isSome then d
  else
    let u : Undock := { reason := reason, following := following }
    let d := (d.withdrawUnsent .p1 Msg.isScSession).stopDiscovery
    let d := d.onSc fun s => { s with undock := some u, pass := none }
    if d.last = 0 then d.cover [.p1] .p1 [] .keep else d.requestRelease .p1 messages .keep

/-! ### Entries in use (R7) -/

def Dev.announce (k : Pos) (d : Dev) : Dev :=
  let d := if (d.entry k).announced then d
    else (d.stageMarker .nodeAdded (posByte k) ((d.entry k).kind.code.zeroExtend 16)).onEntry k fun e => { e with announced := true }
  d.onEntry k fun e => { e with returned := false }

/-- Configuring is complete: the entry goes ACTIVE; the cradle's takes BRINGUP to DOCKED, DOCK before NODE_ADDED (R7, R87). -/
def Dev.enterActive (k : Pos) (d : Dev) : Dev :=
  let d := d.onEntry k fun e => { e with state := .active }
  let d := if k = .p1 ∧ d.sc.dock = .bringup ∧ d.sc.undock = none then
      ((d.setDock .docked).stageMarker .dock 0 0xFFFF).enterWaiting.onSc fun s => { s with announced := true }
    else d
  (d.announce k).revalidatePosting k

/-- A FAILED entry's applied record is PENDING, whatever it showed before (R8, log 20). -/
def Dev.pendingWhereFailed (k : Pos) (d : Dev) : Dev :=
  if (d.ir.pos.get k).result = .pending then d
  else (d.onIrPos k fun p => { p with result := .pending, refused := 0 }).wantApplied k

/-- The entry goes FAILED (R7, R8, R123, R149, R160, R90). RELEASE_ALL, where keys were down, is staged before NODE_ADDED: R129
leaves their order open (log 77). A push under way ends, and a SET or STATUS_BLOCK of its configuring still queued or in flight
stays where it is: no rule says what becomes of them (log 91). -/
def Dev.enterFailed (k : Pos) (d : Dev) : Dev :=
  let d := d.onEntry k fun e => { e with state := .failed }
  let d : Dev := { d with cm := { d.cm with walks := d.cm.walks.set k none } }
  let d := (d.closeInput k).announce k
  let d := ((d.onIrPos k fun p => { p with push := none }).pendingWhereFailed k).targetFailed k
  let d := if k = .p1 then d.contractNone else d
  if k = .p1 ∧ d.sc.dock = .docked then d.undock (some .expired) .bySense [.p1] else d

/-- One BAD_DESCRIPTOR or BAD_ORDER, and FAILED (R59, R61). -/
def Dev.failEntry (k : Pos) (code : FaultCode) (d : Dev) : Dev :=
  (d.logFault code .position (posByte k) true .none).enterFailed k

/-- Configuring completes when its three steps have ended (R61). -/
def Dev.configuringCheck (k : Pos) (d : Dev) : Dev :=
  let c := d.cm.configuring.get k
  let e := d.entry k
  if e.state = .configuring ∧ c.sessionDone = true ∧ c.applyDone = true ∧ (e.isConsumer = false ∨ c.blockDone = true) then
    d.enterActive k
  else d

/-- The two items of step 1 of configuring (R61). -/
def Dev.sessionItems (d : Dev) : List SetItem :=
  [plainItem .token d.sc.session, plainItem .holdLimit (d.sc.holdLimit + 250)]

def Dev.sendSessionItems (k : Pos) (d : Dev) : Dev :=
  d.send k .cm (.set d.sessionItems (d.cm.configuring.get k).serial)

/-- The entry enters CONFIGURING, at the end of its walk or again at resume (R61, R112, R118, R165, R169). -/
def Dev.enterConfiguring (k : Pos) (d : Dev) : Dev :=
  let n := d.cm.workSerial + 1
  let d : Dev := { d with cm := { d.cm with
    workSerial := n, walks := d.cm.walks.set k none
    configuring := d.cm.configuring.set k { Configuring.init with serial := n } } }
  let d := (d.onEntry k fun e => { e with state := .configuring }).resetSettings k |>.forgetBlock k
  let d := if k = .p1 then d.forgetLines else d
  d.sendSessionItems k

/-- The descriptor walk begins, or begins again: the summary cleared, READ at offset 0 (R55). -/
def Dev.startWalk (k : Pos) (d : Dev) : Dev :=
  let n := d.cm.workSerial + 1
  let d : Dev := { d with cm := { d.cm with
    workSerial := n
    walks := d.cm.walks.set k (some { serial := n, at_ := .header, limit := 0, count := 0, used := [] }) } }
  (d.onEntry k fun e => { e with state := .reading, caps := Caps.none }).send k .cm (.read 0 n)

/-! ### Resumed (R10) -/

/-- Position k joins the next schedule, its miss counter at 0 (R10). -/
def Dev.rejoin (k : Pos) (d : Dev) : Dev :=
  let d := d.schedule k
  { d with le := { d.le with miss := d.le.miss.set k 0 } }

/-- The entry returns to its resume state, as for DONE (R10, R117, R149, R160). One whose resume state is absent keeps its
state, and the rest of R10's DONE is done (log 71). -/
def Dev.resumeEntry (k : Pos) (d : Dev) : Dev :=
  match (d.entry k).resume with
  | none => (d.onEntry k fun e => { e with lostAt := none, attempts := 0 }).rejoin k
  | some l =>
    let d := (d.onEntry k fun e => { e with state := l.toState, resume := none, lostAt := none, attempts := 0 }).rejoin k
    let d := d.thaw k
    match l with
    | .probed => d
    | .failed => d
    | .reading => d.startWalk k
    | .configuring => d.enterConfiguring k
    | .active =>
      let d := if d.sc.dock = .releasing then d else d.startPush k (d.ir.pos.get k).appliedGen false
      let d := d.resumePosting k
      if k = .p1 then d.onPcu fun p => { p with resumed := true } else d

/-! ### The return pass (R95) -/

/-- The pass looks at the lowest HELD entry at or above a position. A RESUME an earlier pass has queued to it does not keep
this one's back (log 86). -/
def Dev.passFrom (k : Option Pos) (d : Dev) : Dev :=
  match k with
  | none => d.onSc fun s => { s with pass := none }
  | some k =>
    match (behind k).find? (fun j => (d.entry j).state == .held && !(d.entry j).releasing) with
    | none => d.onSc fun s => { s with pass := none }
    | some j =>
      if (d.entry j).resume.isNone then d.onSc fun s => { s with pass := none }
      else (d.send j .sc (.resume d.sc.session)).onSc fun s => { s with pass := some j }

end Sys2Proof.Machine
end

