-- ==== Sys2Proof/Machine/Faults.lean ====
section
/-! DEFINITION. Line fault diagnosis (chapter 4): classes of sense codes, standing faults, the shut chain, locate, the reading of sense codes. -/
namespace Sys2Proof.Machine

/-! ### Classes (R66) -/

inductive SenseClass where
  | clean | endOfChain | partial_ | critical | concealed
deriving DecidableEq, Repr

def SenseCode.sort : SenseCode → SenseClass
  | .clean => .clean
  | .noLoad => .endOfChain
  | .openWire => .partial_ | .crossed => .partial_ | .shorted => .partial_
  | .posToChassis => .critical | .negToBattery => .critical
  | .negToChassis => .concealed | .posToBattery => .concealed

def SenseCode.isFault (c : SenseCode) : Bool := c != .clean && c != .noLoad

/-- The fault code of a sense code (R80). -/
def SenseCode.fault : SenseCode → FaultCode
  | .clean => .none | .noLoad => .none | .openWire => .openWire | .crossed => .crossed | .shorted => .shorted
  | .posToChassis => .posToChassis | .negToBattery => .negToBattery | .negToChassis => .negToChassis
  | .posToBattery => .posToBattery

def Dev.standing (d : Dev) (k : Pos) : Option Standing := (d.cm.segs.get k).standing

def Dev.setStanding (k : Pos) (s : Option Standing) (d : Dev) : Dev :=
  d.onSeg k fun g => { g with standing := s, cleanRun := 0 }

/-- The segment is switched off because of its fault: SEGMENT OFF to the node ahead, whose segment state is FAULT. -/
def Dev.faultSegment (k : Pos) (d : Dev) : Dev :=
  match k.prev? with
  | none => d
  | some j => (d.sendSegment j .off .faultOff).setSegState j .fault

/-- FAULTED at frontier k; where entry k is a returned one, after a release of k..last without messages (R12, R69). -/
def Dev.faultFrontier (k : Pos) (d : Dev) : Dev :=
  if (d.entry k).isReturned && !(d.entry k).releasing then d.requestRelease k [] .faulted else d.enterFaulted

/-- A partial code, or SILENT, found at segment k by a step (R69). -/
def Dev.partialFault (k : Pos) (code : FaultCode) (sense : Option SenseCode) (d : Dev) : Dev :=
  let same := match d.standing k with
    | some s => s.code == code
    | none => false
  let d := if same then d else d.logFault code .segment (posByte k) true .none
  ((d.setStanding k (some { code := code, sense := sense, localized := true })).faultSegment k).faultFrontier k

/-- The standing fault of a segment stands for a sense code. -/
def Dev.standsFor (d : Dev) (k : Pos) (code : SenseCode) : Bool :=
  match d.standing k with
  | some s => s.sense == some code
  | none => false

/-- The standing fault of a segment is UNLOCATED. -/
def Dev.unlocatedStands (d : Dev) (k : Pos) : Bool :=
  match d.standing k with
  | some s => s.code == .unlocated
  | none => false

/-- UNLOCATED is recorded, or not, and is the standing fault of the segment, for a concealed code (R75). -/
def Dev.raiseUnlocated (k : Pos) (code : SenseCode) (record : Bool) (d : Dev) : Dev :=
  let d := if record then d.logFault .unlocated .segment (posByte k) false code.fault else d
  d.setStanding k (some { code := .unlocated, sense := some code, localized := false })

/-! ### The shut chain (R72) -/

/-- The Chain Manager's SEGMENT messages not yet sent are withdrawn from the queue of position 1. -/
def Dev.withdrawSegments (d : Dev) : Dev :=
  d.withdrawUnsent .p1 fun m => m.sub == .cm && (match m.payload with | .segment _ _ => true | _ => false)

/-- A release already pending is followed by nothing of its own: the shut chain and locate say where discovery goes. -/
def Dev.keepDiscovery (d : Dev) : Dev :=
  { d with cm := { d.cm with release := d.cm.release.map fun r => { r with after := .keep } } }

/-- A critical code about segment k shuts the chain. -/
def Dev.shutChain (k : Pos) (code : SenseCode) (d : Dev) : Dev :=
  let d := d.logFault code.fault .segment (posByte k) true .none
  let d := d.setStanding k (some { code := code.fault, sense := some code, localized := true })
  let d := d.abandonLocate.onCm fun c => { c with
    shut := some k, discovery := .shut, initialPass := false, isRetry := false, offWait := false, codeRead := none
    stepTimer := 0, frontierTimer := 0, onOwed := Per6.const false }
  let d := d.withdrawSegments.sendSegment .p1 .off .shutOff
  let d := d.setSegState .p1 (if k = .p2 then .fault else .off)
  d.keepDiscovery.requestRelease .p2 [] .keep

/-! ### Locate (R74, R76, R77) -/

/-- Every standing fault ends and every confirmation count returns to 0. -/
def Dev.clearStanding (d : Dev) : Dev :=
  { d with cm := { d.cm with segs := Per6.ofFn fun k =>
      { (d.cm.segs.get k) with standing := none, confirm := 0, cleanRun := 0 } } }

/-- Step 1 of locate. -/
def Dev.startLocate (cause : LocateCause) (sought : Option SenseCode) (d : Dev) : Dev :=
  let d := d.clearStanding
  let d : Dev := { d with cm := { d.cm with
    discovery := .locating, isRetry := false, offWait := false, codeRead := none, onOwed := Per6.const false
    locate := { d.cm.locate with
      step := .settling, seg := .p2, timer := 0, sought := sought, cause := cause, offDone := false, observed := 0 } } }
  let d := d.withdrawSegments.sendSegment .p1 .off .locateOff
  d.keepDiscovery.requestRelease .p2 [] .keep

/-- Locate restarts with its cause and sought code: after a hold by R79, and at a chain retry, where R79 does not speak of them,
as the model's choice (log 119). -/
def Dev.restartLocate (d : Dev) : Dev := d.startLocate d.cm.locate.cause d.cm.locate.sought

/-- The sought code of a host locate (R76). -/
def Dev.hostSought (d : Dev) : Option SenseCode :=
  (Pos.all.findSome? fun k => match d.standing k with
    | some s => if s.code = .unlocated then s.sense else none
    | none => none)

/-- Locate ends with a result. -/
def Dev.endLocate (r : LocateResult) (d : Dev) : Dev :=
  { d with cm := { d.cm with locate := { d.cm.locate with step := .idle, result := r } } }

/-- The end of the chain was reached, or a DIAG refused, with no concealed code (R78). -/
def Dev.notReproduced (recheck : Bool) (d : Dev) : Dev :=
  let n := d.cm.locate.observed
  let detail := match d.cm.locate.sought with
    | some c => c.fault
    | none => .none
  let d := d.logFault .notReproduced (if n = 0 then .none else .segment) (BitVec.ofNat 8 n) false detail
  (d.endLocate .notReproduced).enterComplete recheck

/-- Step 3 of locate for segment k (R78). -/
def Dev.examine (k : Pos) (d : Dev) : Dev :=
  match k.prev? with
  | none => d
  | some j =>
    if (d.entry j).seg = .none then d.notReproduced false
    else
      let d := d.sendSegment j .diag .locateDiag
      { d with cm := { d.cm with codeRead := none, locate := { d.cm.locate with step := .powering, seg := k, timer := 0 } } }

/-- A concealed code met by a discovery step: in the initial pass it starts locate (R74), after it UNLOCATED stands, without
a record where a retry reads the code of the standing fault again (R71, R75). -/
def Dev.concealedAtStep (k : Pos) (code : SenseCode) (d : Dev) : Dev :=
  if d.cm.initialPass then d.startLocate .automatic (some code)
  else ((d.raiseUnlocated k code (!(d.cm.isRetry && d.standsFor k code))).faultSegment k).faultFrontier k

/-- The outcome of a fault code that ends an observation of locate (R78). -/
def Dev.locateFault (k : Pos) (code : SenseCode) (d : Dev) : Dev :=
  match code.sort with
  | .concealed =>
    let d := d.logFault code.fault .segment (posByte k) true .none
    let d := (d.setStanding k (some { code := code.fault, sense := some code, localized := true })).faultSegment k
    (d.endLocate .localized).enterFaulted
  | .partial_ => (d.endLocate .abandoned).partialFault k code.fault (some code)
  | .critical => d.shutChain k code
  | .clean => d
  | .endOfChain => d

/-! ### The watch (R68, R70, R75) -/

/-- A pending release that begins at a position leaves discovery FAULTED, its timer starting at the completion (R70). -/
def Dev.faultAfterRelease (k : Pos) (d : Dev) : Dev :=
  d.onCm fun c => { c with release := c.release.map fun r => if r.first = k then { r with after := .faultTimer } else r }

/-- A partial code confirmed on the watch (R70): FAULTED at once with retry count 0, and a release of k..last where entry k
is not VACANT; the frontier timer then starts at its completion. -/
def Dev.watchPartial (k : Pos) (code : SenseCode) (d : Dev) : Dev :=
  let d := d.logFault code.fault .segment (posByte k) true .none
  let d := (d.setStanding k (some { code := code.fault, sense := some code, localized := true })).faultSegment k
  let d := (d.overtakeLocate.onCm fun c => { c with isRetry := false }).enterFaulted
  if (d.entry k).isVacant then d
  else if (d.entry k).releasing then d.faultAfterRelease k
  else d.requestRelease k [] .faultTimer

/-- A concealed code confirmed on the watch after the initial pass: nothing is new where UNLOCATED stands for it (R75). -/
def Dev.watchConcealed (k : Pos) (code : SenseCode) (d : Dev) : Dev :=
  if d.unlocatedStands k && d.standsFor k code then d else d.raiseUnlocated k code true

/-- A code confirmed on the watch. -/
def Dev.watchConfirmed (k : Pos) (code : SenseCode) (d : Dev) : Dev :=
  if code.sort = .partial_ then d.watchPartial k code
  else if d.cm.initialPass then d.startLocate .automatic (some code)
  else d.watchConcealed k code

/-- The clean run of an UNLOCATED standing fault; at 4 the standing fault ends (R75). -/
def SegRecord.run (clean : Bool) (g : SegRecord) : SegRecord :=
  match g.standing with
  | none => g
  | some s =>
    if s.code ≠ .unlocated then g
    else if clean then
      if 4 ≤ g.cleanRun + 1 then { g with standing := none, cleanRun := 0 } else { g with cleanRun := g.cleanRun + 1 }
    else { g with cleanRun := 0 }

/-- A code on the watch of segment k (R68). While discovery is LOCATING a concealed one is ignored, its confirmation count left
as it is: by R78 where it comes from another node, and as the model's choice where the node ahead of the segment locate has
just found good reports it in BRINGING_IN (log 113). -/
def Dev.watchCode (k : Pos) (code : SenseCode) (d : Dev) : Dev :=
  match code.sort with
  | .critical => d.shutChain k code
  | .clean => d.onSeg k fun g => { g.run true with confirm := 0 }
  | .endOfChain => d.onSeg k fun g => { g.run true with confirm := 0 }
  | .partial_ =>
    let d := d.onSeg k fun g => { g.run false with confirm := g.confirm + 1 }
    if 4 ≤ (d.cm.segs.get k).confirm then (d.onSeg k fun g => { g with confirm := 0 }).watchConfirmed k code else d
  | .concealed =>
    if d.cm.discovery = .locating then d
    else
      let d := d.onSeg k fun g => { g.run false with confirm := g.confirm + 1 }
      if 4 ≤ (d.cm.segs.get k).confirm then (d.onSeg k fun g => { g with confirm := 0 }).watchConfirmed k code else d

/-! ### The reading of sense codes (R52, R68, R78) -/

/-- The fault code an observation has read and that ends it. -/
def Dev.faultRead (d : Dev) : Option SenseCode := d.cm.codeRead.filter SenseCode.isFault

/-- A critical code acts at once; any other is what the observation has read. -/
def Dev.stepCode (k : Pos) (code : SenseCode) (d : Dev) : Dev :=
  if code.sort = .critical then d.shutChain k code
  else if d.faultRead.isSome then d
  else { d with cm := { d.cm with codeRead := some code } }

/-- A sense code of an ANSWER of the position ahead of segment k: kept as the last one, and read while the dock is DOCKED,
no undock is pending (log 54) and the chain is not SHUT (R68, R73). One about a segment in DIAG that neither a step nor
locate observes has no reader: it is kept alone (log 76), but for a critical one during locate (R79). An undefined code is
kept as the last one and acted on no further (R186). As the model's choice it is then no code of an observation, which ends by
the last defined one, and on the watch it leaves both counts as they are (log 118). -/
def Dev.takeSense (k : Pos) (byte : Byte) (d : Dev) : Dev :=
  let d := d.onSeg k fun g => { g with last := byte }
  match k.prev?, SenseCode.ofCode? byte with
  | some j, some code =>
    let e := d.entry j
    if d.sc.dock ≠ .docked ∨ d.sc.undock.isSome ∨ e.isVacant = true ∨ d.cm.discovery = .shut then d
    else if d.cm.discovery = .locating ∧ d.cm.locate.seg = k ∧ d.cm.locate.step = .observing then d.stepCode k code
    else if d.cm.discovery = .locating ∧ d.cm.locate.seg = k ∧ d.cm.locate.step = .probing then
      if code.isFault then d.stepCode k code else d
    else if d.cm.discovery = .observing ∧ d.frontier = k.toNat then
      if d.cm.offWait then d else d.stepCode k code
    else if (d.cm.discovery = .probing ∨ (d.cm.discovery = .powering ∧ (e.seg = .on ∨ e.seg = .diag))) ∧ d.frontier = k.toNat then
      if code.isFault then d.stepCode k code else d
    else if e.seg = .on then d.watchCode k code
    else if e.seg = .diag ∧ d.cm.discovery = .locating ∧ code.sort = .critical then d.shutChain k code
    else d
  | _, _ => d

end Sys2Proof.Machine
end

