-- ==== Sys2Proof/Machine/Discovery.lean ====
section
/-! DEFINITION. Discovery and enumeration (chapter 3): steps, observations, SEGMENT and PROBE results, the chain retry; locate's steps (R78). -/
namespace Sys2Proof.Machine

/-! ### Conditions (R50) -/

/-- The dock is DOCKED with no undock pending, no entry LOST and none with release pending. -/
def Dev.mayStep (d : Dev) : Bool :=
  d.sc.dock == .docked && d.sc.undock.isNone && !d.anyLost && !d.anyReleasing

def Entry.inUse (e : Entry) : Bool := e.state == .active || e.state == .failed

/-- The position ahead of the frontier. -/
def Dev.ahead (d : Dev) : Option Pos := Pos.ofNat? (d.frontier - 1)

/-- The position at the frontier, if the chain is not full. -/
def Dev.frontierPos (d : Dev) : Option Pos := Pos.ofNat? d.frontier

def Payload.isBringOn : Payload → Bool
  | .segment _ .bringOn => true
  | _ => false

/-- The SEGMENT ON behind the entry ahead of the frontier is outstanding, or kept back by hold-over (R53, R54). One left in
the queue of a position at or behind the node ahead, as of an entry that returned, holds up no step (R50, R94). -/
def Dev.bringOnOut (d : Dev) : Bool :=
  Pos.all.any fun k => decide (k.toNat + 1 < d.frontier) &&
    (d.cm.onOwed.get k || d.outstanding k fun b p => b == .cm && p.isBringOn)

/-- A step may be taken at the frontier. -/
def Dev.stepReady (d : Dev) : Bool :=
  d.mayStep && !d.bringOnOut && (match d.ahead with
    | some j => (d.entry j).inUse
    | none => false)

/-! ### Steps (R50) -/

/-- The chain ends at a position: where it is a returned one, k..last are released without RELEASE messages (R12). -/
def Dev.dropReturned (k : Pos) (d : Dev) : Dev :=
  if (d.entry k).isReturned && !(d.entry k).releasing then d.requestRelease k [] .keep else d

/-- COMPLETE without a re-check: the node ahead has no switched port (R50, R51). A returned position at the frontier is
released first, as at an end of chain that an observation finds (R12, log 59). -/
def Dev.chainEnds (d : Dev) : Dev :=
  (match d.frontierPos with
    | some k => d.dropReturned k
    | none => d).enterComplete false

/-- A step begins at the frontier. -/
def Dev.takeStep (isRetry : Bool) (d : Dev) : Dev :=
  match d.ahead with
  | none => d
  | some j =>
    if d.frontierPos.isNone ∨ (d.entry j).seg = .none then d.chainEnds
    else
      let d : Dev := { d with cm := { d.cm with
        discovery := .powering, isRetry := isRetry, codeRead := none, offWait := false, stepTimer := 0 } }
      d.sendSegment j .diag .stepDiag

/-- Locate goes on to the next segment when the entry brought in is in use (R78). -/
def Dev.locateNext (d : Dev) : Dev :=
  let k := d.cm.locate.seg
  if (d.entry k).seg = .none then d.notReproduced false
  else match k.next? with
    | none => d.notReproduced false
    | some j => d.examine j

/-- The position under PROBE, of discovery or of locate. -/
def Dev.probed (d : Dev) : Option Pos :=
  if d.cm.discovery = .probing then d.frontierPos
  else if d.cm.discovery = .locating ∧ d.cm.locate.step = .probing then some d.cm.locate.seg
  else none

/-- DISCOVERY_STEP: a step at the frontier from WAITING, or locate's next segment, or the PROBE that was left unqueued
while an entry was LOST (log 37). -/
def Dev.discoveryStep (d : Dev) : Dev :=
  if d.cm.discovery = .waiting ∧ d.stepReady = true then d.takeStep d.cm.isRetry
  else if d.cm.discovery = .locating ∧ d.cm.locate.step = .bringingIn ∧ d.mayStep = true ∧ d.bringOnOut = false
      ∧ (d.entry d.cm.locate.seg).inUse = true then d.locateNext
  else match d.probed with
    | some k => if d.mayStep && !d.probeOut k .cm && d.cm.codeRead.isNone then d.send k .cm .probe else d
    | none => d

/-- FRONTIER_TIMER: the re-check, the retry or the end of the deferral (R62, R63, R64). -/
def Dev.frontierExpiry (d : Dev) : Dev :=
  if d.cm.frontierTimer < 2000 ∨ d.stepReady = false then d
  else match d.cm.discovery with
    | .complete => if d.cm.recheck then d.takeStep false else d
    | .faulted => (d.onCm fun c => { c with retry := c.retry + 1 }).takeStep true
    | .deferred => (d.onCm fun c => { c with retry := 0 }).takeStep false
    | .stopped => d | .waiting => d | .powering => d | .observing => d | .probing => d
    | .givenUp => d | .shut => d | .locating => d

/-! ### Observations (R52, R69, R75) -/

/-- A fault code, not critical, ends the step (R52, R53). -/
def Dev.stepFault (k : Pos) (code : SenseCode) (d : Dev) : Dev :=
  if code.sort = .concealed then d.concealedAtStep k code else d.partialFault k code.fault (some code)

/-- CLEAN: the PROBE of the frontier (R52, R53). -/
def Dev.beginProbing (k : Pos) (d : Dev) : Dev :=
  let d : Dev := { d with cm := { d.cm with discovery := .probing, stepTimer := 0, codeRead := none } }
  if d.probeOut k .cm then d else d.send k .cm .probe

/-- NO_LOAD: the end of the chain, behind a release of a returned position (R12, R52). -/
def Dev.endOfChain (k : Pos) (d : Dev) : Dev :=
  match k.prev? with
  | none => d.dropReturned k
  | some j => ((d.dropReturned k).onCm fun c => { c with offWait := true }).sendSegment j .off .endOff

/-- OBSERVATION_END: the outcome of discovery's observation, of the segment at the frontier as it stands (log 60). A fault code
ends it also while an entry is LOST (R52 against R14: the model's choice, log 114). -/
def Dev.observationEnd (d : Dev) : Dev :=
  match d.frontierPos with
  | none => d
  | some k =>
    if d.cm.discovery.isStep = false ∨ d.cm.offWait = true ∨ d.sc.dock ≠ .docked ∨ d.sc.undock.isSome then d
    else match d.faultRead with
      | some code => d.stepFault k code
      | none =>
        if d.cm.discovery ≠ .observing ∨ d.cm.stepTimer < 20 ∨ d.anyLost = true then d
        else match d.cm.codeRead with
          | some .clean => d.beginProbing k
          | some .noLoad => d.endOfChain k
          | _ => d

/-- LOCATE_OBSERVATION_END: the outcome of locate's observation (R78). A fault code ends locate, its SEGMENT OFF queued, also
while another entry is LOST, where R79 has locate queue nothing new: the model's choice (log 114). -/
def Dev.locateObservationEnd (d : Dev) : Dev :=
  let k := d.cm.locate.seg
  if d.cm.discovery ≠ .locating ∨ d.sc.dock ≠ .docked ∨ d.sc.undock.isSome ∨
      (d.cm.locate.step ≠ .observing ∧ d.cm.locate.step ≠ .probing) then d
  else match d.faultRead with
    | some code => d.locateFault k code
    | none =>
      if d.cm.locate.step ≠ .observing ∨ d.cm.locate.timer < 100 ∨ d.anyLost = true then d
      else match d.cm.codeRead with
        | some .clean =>
          let d : Dev := { d with cm := { d.cm with codeRead := none, locate := { d.cm.locate with step := .probing, timer := 0 } } }
          if d.probeOut k .cm then d else d.send k .cm .probe
        | some .noLoad =>
          (match k.prev? with
            | none => d
            | some j => d.sendSegment j .off .endOff).notReproduced true
        | _ => d

/-- SETTLING_END (R77). While entry 1 is not in use, as of a returned cradle that is brought in, locate waits (log 94). -/
def Dev.settlingEnd (d : Dev) : Dev :=
  let l := d.cm.locate
  if d.cm.discovery = .locating ∧ l.step = .settling ∧ l.offDone = true ∧ 100 ≤ l.timer ∧ d.mayStep = true
      ∧ (d.entry .p1).inUse = true then d.examine .p2
  else d

/-! ### SEGMENT results (R51, R52, R53, R69, R72, R77, R78) -/

/-- The discovery step this DIAG or OFF belongs to is the one under way. -/
def Dev.atStep (d : Dev) (j : Pos) (s : Discovery) : Bool := d.cm.discovery == s && d.ahead == some j

/-- The result of a step's DIAG. That of a step stopped by a hold still sets the segment state to DIAG (log 51). A DIAG left
from before a hold, whose result comes when the step has been taken again and is POWERING, counts as the new step's, and the
second DIAG's result then has no effect: the model's choice, R54 is silent (log 112). A late PROBE answer that moves the
frontier on leaves the DIAG of the step at the old one without effect (log 60). -/
def Dev.diagResult (j : Pos) (code : ResultCode) (d : Dev) : Dev :=
  if !d.atStep j .powering then
    (if code = .done ∧ d.cm.discovery = .waiting then d.setSegState j .diag else d)
  else match code with
    | .done => (d.setSegState j .diag).onCm fun c => { c with discovery := .observing, stepTimer := 0, codeRead := none }
    | .noReply => d.sendSegment j .diag .stepDiag
    | .busyTimeout => d.sendSegment j .diag .stepDiag
    | .refused => (d.setSegState j .none).chainEnds
    | .mismatch => (d.setSegState j .none).chainEnds
    | .gone => d

/-- The OFF of an end of chain: COMPLETE, the standing fault of the segment ended (R52, R63, R71), at a step of any kind (log
62). That of a step stopped by a hold changes nothing, in WAITING (log 51) and when the step has been taken again (log 112). The
OFF that locate queues at NO_LOAD has its results in
COMPLETE, taken as R52 has those of a step (R78 gives none, log 95). -/
def Dev.endOffResult (j : Pos) (code : ResultCode) (d : Dev) : Dev :=
  let waits := d.atStep j .observing && d.cm.offWait
  let ended (s : SegState) (recheck : Bool) (d : Dev) : Dev :=
    let d := d.setSegState j s
    if waits then
      (match j.next? with
        | some k => d.setStanding k none
        | none => d).enterComplete recheck
    else if s = .none then d.onCm fun c => { c with recheck := false }
    else d
  if !waits && d.cm.discovery != .complete then d
  else match code with
    | .done => ended .off true d
    | .noReply => d.sendSegment j .off .endOff
    | .busyTimeout => d.sendSegment j .off .endOff
    | .refused => ended .none false d
    | .mismatch => ended .none false d
    | .gone => d

/-- The chain is shut, or locate has darkened it: no SEGMENT ON is queued. -/
def Dev.noPower (d : Dev) : Bool :=
  d.cm.discovery == .shut || (d.cm.discovery == .locating && d.cm.locate.step == .settling)

/-- The result of the SEGMENT ON behind a new entry (R53); while the dock is HOLDING nothing is queued, and the message is
owed until the dock is DOCKED again (R54). Of one sent before the chain was shut, or before locate began, the result has no
effect (the model's choice, log 104). -/
def Dev.bringOnResult (j : Pos) (code : ResultCode) (d : Dev) : Dev :=
  let again : Dev :=
    if d.noPower || d.sc.undock.isSome then d
    else if d.sc.dock = .docked then d.sendSegment j .on .bringOn
    else if d.sc.dock = .holding then d.onCm fun c => { c with onOwed := c.onOwed.set j true }
    else d
  match code with
  | .done => if d.noPower then d else d.setSegState j .on
  | .noReply => again
  | .busyTimeout => again
  | .refused => d
  | .mismatch => d
  | .gone => d

/-- A failed OFF is queued again while its reason stands (R69, R72). REFUSED and MISMATCH, of which these rules do not speak,
leave the segment state as it is (log 92). -/
def Dev.offAgain (j : Pos) (use : SegUse) (wanted : Bool) (code : ResultCode) (d : Dev) : Dev :=
  if (code = .noReply ∨ code = .busyTimeout) ∧ wanted = true ∧ (d.entry j).isVacant = false then d.sendSegment j .off use else d

/-- A result of locate's SEGMENT in HOLDING, where locate is frozen and restarts at step 1 (R79): the node that has switched
shows it, and nothing else happens (log 51). -/
def Dev.frozenResult (j : Pos) (s : SegState) (code : ResultCode) (d : Dev) : Dev :=
  if code = .done then d.setSegState j s else d

/-- The OFF of locate step 1 (R77; REFUSED as DONE, log 19). It is queued again at once while an entry is LOST too (log 96). Behind
a restart the result of an OFF sent before it counts as one of the new start's (the model's choice, log 104). -/
def Dev.locateOffResult (code : ResultCode) (d : Dev) : Dev :=
  if d.cm.discovery ≠ .locating ∨ d.cm.locate.step ≠ .settling then d
  else if d.sc.dock = .holding then d.frozenResult .p1 .off code
  else
    let done : Dev := { d.setSegState .p1 .off with
      cm := { (d.setSegState .p1 .off).cm with locate := { d.cm.locate with offDone := true, timer := 0 } } }
    match code with
    | .done => done
    | .refused => done
    | .mismatch => done
    | .noReply => d.sendSegment .p1 .off .locateOff
    | .busyTimeout => d.sendSegment .p1 .off .locateOff
    | .gone => d

/-- The DIAG of locate step 3 (R78). It is queued again at once while an entry is LOST too (R78 against R79, log 96). The
result of one sent before a restart, which comes in SETTLING, has no effect (the model's choice, log 104). -/
def Dev.locateDiagResult (j : Pos) (code : ResultCode) (d : Dev) : Dev :=
  let k := d.cm.locate.seg
  if d.cm.discovery ≠ .locating ∨ d.cm.locate.step ≠ .powering ∨ k.prev? ≠ some j then d
  else if d.sc.dock = .holding then d.frozenResult j .diag code
  else match code with
    | .done =>
      (d.setSegState j .diag).onCm fun c => { c with
        codeRead := none, locate := { c.locate with step := .observing, timer := 0, observed := k.toNat } }
    | .noReply => d.sendSegment j .diag .locateDiag
    | .busyTimeout => d.sendSegment j .diag .locateDiag
    | .refused => (d.setSegState j .none).notReproduced false
    | .mismatch => (d.setSegState j .none).notReproduced false
    | .gone => d

/-- SEGMENT_RESULT. -/
def Dev.segmentResult (j : Pos) (use : SegUse) (code : ResultCode) (d : Dev) : Dev :=
  match use with
  | .stepDiag => d.diagResult j code
  | .endOff => d.endOffResult j code
  | .bringOn => d.bringOnResult j code
  | .faultOff => d.offAgain j use ((d.entry j).seg == .fault) code
  | .shutOff => d.offAgain j use (d.cm.discovery == .shut) code
  | .locateOff => d.locateOffResult code
  | .locateDiag => d.locateDiagResult j code

/-! ### PROBE results of the Chain Manager (R6, R12, R53, R54, R78) -/

/-- The position is the one discovery or locate is probing. -/
def Dev.probingAt (d : Dev) (k : Pos) : Bool :=
  (d.cm.discovery == .probing && d.frontierPos == some k) ||
    (d.cm.discovery == .locating && d.cm.locate.step == .probing && d.cm.locate.seg == k)

/-- What follows a PROBE DONE taken at a step: SEGMENT ON behind it, WAITING or BRINGING_IN. Locate's SEGMENT ON is queued at
once while another entry is LOST too: it is the end of a message out, not a step begun (R78 against R79, log 85). -/
def Dev.stepBroughtIn (k : Pos) (d : Dev) : Dev :=
  if d.cm.discovery = .locating then
    let d := match k.prev? with
      | some j => d.sendSegment j .on .bringOn
      | none => d
    let d := d.setStanding k none
    { d with cm := { d.cm with codeRead := none, locate := { d.cm.locate with step := .bringingIn } } }
  else d.broughtIn k

/-- A returned position that answers with a matching identity: PROBED, returned kept (R12). -/
def Dev.rediscover (k : Pos) (id : Identity) (d : Dev) : Dev :=
  (d.onEntry k fun e => { e with state := .probed, revision := id.revision }).schedule k

/-- The answer is that of the step under way: the dock is DOCKED and no fault code has ended the step (R53, R54). -/
def Dev.answersStep (d : Dev) (k : Pos) : Bool :=
  d.probingAt k && d.faultRead.isNone && d.sc.dock == .docked

/-- A fault code read while probing ends the step as it ends an observation; the answer is then a late one (R53). -/
def Dev.endProbing (k : Pos) (d : Dev) : Dev :=
  match d.faultRead with
  | none => d
  | some code =>
    if d.probingAt k = false ∨ d.sc.dock ≠ .docked then d
    else if d.cm.discovery = .locating then d.locateFault k code else d.stepFault k code

/-- What follows when the answer has been taken into the table: the step goes on, a late answer leaves discovery as it is
(log 52), and in HOLDING the entry goes HELD (R54). -/
def Dev.answerTaken (k : Pos) (step : Bool) (d : Dev) : Dev := (if step then d.stepBroughtIn k else d).holdNew k

/-- A PROBE answer is taken into the table (R5, R6, R12). A position with a release pending takes nothing (R17), nor does a
new one while a release is pending (R5, log 18). -/
def Dev.takeAnswer (k : Pos) (id : Identity) (step : Bool) (d : Dev) : Dev :=
  let e := d.entry k
  if e.releasing then d
  else if e.isReturned then
    if id.matchesEntry e then (d.rediscover k id).answerTaken k step
    else d.requestRelease k [] (.take k id)
  else if e.isVacant && k.toNat == d.last + 1 && !d.anyReleasing then (d.enterProbed k id).answerTaken k step
  else d

/-- A PROBE(k), k at 2 or above, answered DONE with an identity header. -/
def Dev.probeTaken (k : Pos) (id : Identity) (d : Dev) : Dev := (d.endProbing k).takeAnswer k id (d.answersStep k)

/-- SILENT at segment k (R53, R69, R78). -/
def Dev.silent (k : Pos) (d : Dev) : Dev :=
  let d := if d.cm.discovery = .locating then d.endLocate .abandoned else d
  d.partialFault k .silent none

/-- A PROBE(k), k at 2 or above, that brought no answer. -/
def Dev.probeFailed (k : Pos) (d : Dev) : Dev :=
  if !d.probingAt k || d.sc.dock != .docked || d.faultRead.isSome || d.anyLost then d
  else
    let t := if d.cm.discovery = .locating then d.cm.locate.timer else d.cm.stepTimer
    if t < 50 then d.send k .cm .probe else d.silent k

/-! ### Chain retry and locate request (R65, R73, R76, R79) -/

/-- The chain retry acts while DOCKED, or in BRINGUP with entry 1 FAILED. -/
def Dev.retryActs (d : Dev) : Bool :=
  d.sc.undock.isNone && (d.sc.dock == .docked || (d.sc.dock == .bringup && (d.entry .p1).state == .failed))

/-- The lowest FAILED position. -/
def Dev.lowestFailed (d : Dev) : Option Pos :=
  Pos.all.find? fun k => (d.entry k).state == .failed && !(d.entry k).releasing

/-- A chain retry (R65). Its release f..last, f the lowest FAILED position, counts as covering a frontier behind f that is
VACANT too: FAULTED or GIVEN_UP then stands until the release completes (log 75). In LOCATING locate restarts at step 1 (R79),
and keeps its cause and sought code as the model's choice (log 119). -/
def Dev.chainRetry (d : Dev) : Dev :=
  if !d.retryActs then d
  else
    let frontier := d.frontier
    let was := d.cm.discovery
    let failed := d.lowestFailed
    let d := match failed with
      | some f => d.requestRelease f (behind f) (if was = .locating then .keep else .waiting)
      | none => d
    let coveredFrontier := match failed with
      | some f => decide (f.toNat ≤ frontier)
      | none => false
    match was with
    | .faulted => if coveredFrontier then d else d.enterWaiting.onCm fun c => { c with retry := 0 }
    | .givenUp => if coveredFrontier then d else d.enterWaiting.onCm fun c => { c with retry := 0 }
    | .complete => if d.cm.recheck && d.cm.discovery == .complete then d.onCm fun c => { c with frontierTimer := 2000 } else d
    | .shut => (d.clearStanding.onCm fun c => { c with shut := none, retry := 0 }).enterWaiting
    | .locating => d.restartLocate
    | .stopped => d | .waiting => d | .powering => d | .observing => d | .probing => d | .deferred => d

/-- A locate request acts while DOCKED, not SHUT, and with no undock pending (R76, log 54). -/
def Dev.locateRequest (d : Dev) : Dev :=
  if d.sc.dock ≠ .docked ∨ d.sc.undock.isSome ∨ d.cm.discovery = .shut then d
  else d.startLocate .host d.hostSought

end Sys2Proof.Machine
end

