-- ==== Sys2Proof/Machine/Dock.lean ====
section
/-! DEFINITION. Session Controller operations (chapter 5): hold-over, resumes, the cradle's return, the release sequence; loss and the resume walk (chapter 1). -/
namespace Sys2Proof.Machine

/-! ### Hold-over (R91, R92) -/

def Dev.resumeOut (d : Dev) (k : Pos) (b : Block) : Bool :=
  d.outstanding k fun s p => s == b && (match p with | .resume _ => true | _ => false)

/-- A hold tick: RESUME(1), then PROBE(1), each unless one is still in the queue. -/
def Dev.holdTick (d : Dev) : Dev :=
  let d := d.onSc fun s => { s with tickTimer := 0 }
  let d := if d.resumeOut .p1 .sc then d else d.send .p1 .sc (.resume d.sc.session)
  if d.probeOut .p1 .sc then d else d.send .p1 .sc .probe

/-- Discovery stops where it stands; the step is taken again from SEGMENT DIAG (R54, log 31). -/
def Dev.holdDiscovery (d : Dev) : Dev :=
  if d.cm.discovery.isStep then
    d.onCm fun c => { c with discovery := .waiting, stepTimer := 0, codeRead := none, offWait := false }
  else d.onCm fun c => { c with stepTimer := 0 }

/-- Hold-over begins. The return pass stops (R95); a RESUME it has queued stays in its queue (log 86). -/
def Dev.beginHold (d : Dev) : Dev :=
  let d := d.setDock .holding
  let d := Pos.all.foldl (fun d k => d.sendAway .held none k) d
  let d := d.holdDiscovery
  let d : Dev := { d with
    le := { d.le with next := Per6.ofFn fun k => k == .p1, interruption := 0 }
    sc := { d.sc with holdTimer := 0, pass := none } }
  d.holdTick

/-! ### Resume (R10, R93, R94, R95) -/

/-- The dock goes back to DOCKED from HOLDING: the resume walk's pause ends (R14, log 35), locate restarts at step 1 (R79). -/
def Dev.backToDocked (d : Dev) : Dev :=
  let d := (d.setDock .docked).onCm fun c => { c with resumeNow := true }
  if d.cm.discovery = .locating then d.restartLocate else d

/-- The SEGMENT ON messages that hold-over kept back are queued (R53, R54). -/
def Dev.sendOwedOn (d : Dev) : Dev :=
  let owed := d.cm.onOwed
  let d := d.onCm fun c => { c with onOwed := Per6.const false }
  if d.noPower then d
  else Pos.all.foldl (fun d k => d.when (owed.get k) fun d => d.sendSegment k .on .bringOn) d

/-- The cradle is back with this session (R93). -/
def Dev.cradleResumed (d : Dev) : Dev :=
  let d := (d.resumeEntry .p1).backToDocked.sendOwedOn
  (d.withdrawUnsent .p1 fun m => m.sub == .sc && m.payload == .probe).passFrom (some .p2)

/-- Returned is set on an entry behind the cradle, which goes HELD, or on the cradle itself (R11, R117, R123, R149, R160, R162,
R165, R169). -/
def Dev.markReturned (k : Pos) (d : Dev) : Dev :=
  let d := d.onEntry k fun e => { e with
    returned := true, resume := none, lostAt := none, attempts := 0
    state := if k = .p1 then .probed else .held
    imageLost := e.imageLost || e.kind == .display }
  let d := (d.closeInput k).resetSettings k |>.returnPosting k
  if k = .p1 then d.forgetLines.contractNone else d.leaveBlock k

/-- A matching cradle has come back after a reset (R11, R94). A SEGMENT ON owed since the hold is dropped (the model's choice, log
103). -/
def Dev.cradleReturned (id : Identity) (d : Dev) : Dev :=
  let d := Pos.all.foldl (fun d k =>
    if (d.entry k).isVacant || (d.entry k).releasing then d else d.markReturned k) d
  let d := (d.onEntry .p1 fun e => { e with revision := id.revision }).schedule .p1
  let d := d.withdrawUnsent .p1 fun m => m.sub == .sc && (match m.payload with | .resume _ => true | _ => false)
  let d := if d.cm.discovery = .shut ∨ d.cm.discovery = .locating then d
    else d.enterWaiting.onCm fun c => { c with retry := 0 }
  (d.onCm fun c => { c with onOwed := Per6.const false }).backToDocked

/-- A PROBE(1) answered DONE (R6, R87, R94, log 30). -/
def Dev.cradleProbed (id : Identity) (d : Dev) : Dev :=
  let e := d.entry .p1
  if d.sc.undock.isSome ∨ e.releasing = true then d
  else
    let d := if d.sc.dock = .bringup then d.onSc fun s => { s with probeAnswered := true } else d
    if d.sc.dock = .holding ∧ e.isAway = true then
      if id.matchesEntry e then d.cradleReturned id else d.undock (some .otherDock) .bringup []
    else if e.isVacant && d.last == 0 && !d.anyReleasing then d.enterProbed .p1 id
    else d

/-- RESUME(1) answered MISMATCH (R88, R90, R93). In RELEASING, where no rule deals with it, it changes nothing (log 55). A LOST
cradle that returns so in BRINGUP or DOCKED leaves RESUME(2) to the resume walk's timer: R14 names DONE alone (log 83). -/
def Dev.cradleMismatch (d : Dev) : Dev :=
  match d.sc.dock with
  | .holding =>
    if (d.entry .p1).resume = some .active then d.undock (some .otherDock) .bringup [] else d.cradleResumed
  | .docked =>
    if (d.entry .p1).resume = some .active then d.undock (some .otherDock) .bringup [] else d.resumeEntry .p1
  | .bringup => d.resumeEntry .p1
  | .undocked => d | .detecting => d | .releasing => d | .released => d

/-- A RESUME answered DONE. -/
def Dev.resumeDone (k : Pos) (d : Dev) : Dev :=
  if k = .p1 ∧ d.sc.dock = .holding then d.cradleResumed
  else
    let wasLost := (d.entry k).state == .lost
    let d := d.resumeEntry k
    let nextLost := match k.next? with
      | some j => (d.entry j).state == .lost
      | none => false
    if wasLost && nextLost then d.onCm fun c => { c with resumeNow := true, resumeTimer := 0 } else d

/-- MISMATCH at k of 2 or above (R10): a FAILED entry returns as for DONE, RESUME(k+1) of the resume walk following at once as
the model reads it (R14, log 83); any other is released with those behind it. -/
def Dev.resumeMismatch (k : Pos) (d : Dev) : Dev :=
  if (d.entry k).resume = some .failed then d.resumeDone k
  else d.overtakeLocate.requestRelease k (behind k) .deferred

/-- HELD with a resume state, and no release pending. -/
def Entry.awaitsResume (e : Entry) : Bool := e.state == .held && e.resume.isSome && !e.releasing

/-- LOST from a stamp on, the resume state kept (R95). -/
def Entry.lostFrom (t : W32) (e : Entry) : Entry := { e with state := .lost, lostAt := some t, attempts := 0 }

/-- A HELD entry that has a resume state goes LOST (R95), its status block as at any loss (R165). -/
def Dev.loseHeld (k : Pos) (d : Dev) : Dev :=
  if (d.entry k).awaitsResume then (d.onEntry k (Entry.lostFrom d.le.stamp)).leaveBlock k else d

/-- k and the HELD entries behind it that have a resume state go LOST (R95). -/
def Dev.loseFrom (k : Pos) (d : Dev) : Dev := (behind k).foldl (fun d j => d.loseHeld j) d

/-- A RESUME that ended without DONE or MISMATCH (R10, R95). -/
def Dev.resumeFailed (k : Pos) (d : Dev) : Dev :=
  let d := d.onEntry k fun e => { e with attempts := satInc e.attempts }
  if d.sc.pass ≠ some k then d
  else if (d.entry k).attempts.toNat < 3 then d.send k .sc (.resume d.sc.session)
  else (d.loseFrom k).passFrom none

/-- A result of RESUME(k) while entry k is HELD or LOST (R10), of a RESUME queued before the cradle's return too, whose entry has
no resume state by then (R11, log 71). The return pass knows a result of its own by the position alone: that of a RESUME
queued by a pass that a hold has stopped counts for the next pass (log 86). -/
def Dev.resumeResult (k : Pos) (code : ResultCode) (d : Dev) : Dev :=
  let e := d.entry k
  let inPass := d.sc.pass == some k
  if d.sc.undock.isSome ∨ e.releasing = true ∨ e.isAway = false then
    (if inPass then d.passFrom none else d)
  else match code with
    | .done =>
      let d := d.resumeDone k
      if inPass then d.passFrom k.next? else d
    | .mismatch =>
      if k = .p1 then d.cradleMismatch
      else
        let failed := e.resume == some .failed
        let d := d.resumeMismatch k
        if inPass then (if failed then d.passFrom k.next? else d.passFrom none) else d
    | .noReply => d.resumeFailed k
    | .busyTimeout => d.resumeFailed k
    | .refused => d.resumeFailed k
    | .gone => if inPass then d.passFrom none else d

/-! ### Loss and the resume walk (R13, R14, R15) -/

/-- A loss report is taken (R13). -/
def Dev.takeLoss (k : Pos) (d : Dev) : Dev :=
  let e := d.entry k
  if e.releasing = true ∨ e.state.live? = none then d
  else
    let d := (behind k).foldl (fun d j =>
      if (d.entry j).releasing = false ∧ (d.entry j).state.live?.isSome then
        (d.sendAway .lost (some d.le.stamp) j).unschedule j
      else d) d
    d.logFault .nodeLost .position (posByte k) false .none

/-- The resume walk runs in BRINGUP and DOCKED (R14). -/
def Dev.walkRuns (d : Dev) : Bool := (d.sc.dock == .bringup || d.sc.dock == .docked) && d.sc.undock.isNone

/-- The position the resume walk may send RESUME to. -/
def Dev.walkTarget (d : Dev) : Option Pos :=
  d.lowestLost.filter fun k => d.walkRuns && !(d.entry k).releasing && !d.resumeOut k .cm && !d.resumeOut k .sc

/-- RESUME(k) is queued and the timer restarts. -/
def Dev.queueResume (k : Pos) (d : Dev) : Dev :=
  (d.send k .cm (.resume d.sc.session)).onCm fun c => { c with resumeTimer := 0, resumeNow := false }

def Dev.resumeTimerExpiry (d : Dev) : Dev :=
  match d.walkTarget with
  | some k => if 100 ≤ d.cm.resumeTimer then d.queueResume k else d
  | none => d

/-- The age of a LOST entry is at or above the hold-over limit (R15). -/
def Dev.expired (d : Dev) (k : Pos) : Bool :=
  match (d.entry k).lostAt with
  | some t => (d.entry k).state == .lost && decide (d.sc.holdLimit.toNat ≤ (d.le.stamp - t).toNat)
  | none => false

/-- LOST_EXPIRY (R15, R64). -/
def Dev.lostExpiry (k : Pos) (d : Dev) : Dev :=
  if d.expired k = false ∨ (d.entry k).releasing = true then d
  else
    let after : AfterRelease :=
      if k ≠ .p1 ∧ (d.sc.dock = .docked ∨ d.sc.dock = .holding) then .deferred else .keep
    d.overtakeLocate.requestRelease k ((behind k).filter fun j => j != k) after

/-! ### The release sequence (R97 to R99) -/

/-- The release sequence starts (R97, R98). Every unsent PROBE(1) and RESUME(1) of the Session Controller is withdrawn, a PROBE(1)
of BRINGUP too (the model's choice, log 105); a RESUME of the return pass stays queued (log 106). -/
def Dev.startSequence (forDisable : Bool) (d : Dev) : Dev :=
  let d := (d.withdrawUnsent .p1 Msg.isScSession).stopDiscovery
  let d := (d.setDock .releasing).onSc fun s => { s with
    pass := none, sequence := some { step := .drain, timer := 0, empty := Per6.const false, forDisable := forDisable } }
  (d.failPosting .released).abandonPushes

/-- A request by the RELEASE line, while DOCKED (R97). -/
def Dev.releasePress (d : Dev) : Dev :=
  if d.sc.dock = .docked ∧ d.sc.undock = none then d.startSequence false else d

/-- A moved release serial (R97). -/
def Dev.releaseRequest (d : Dev) : Dev :=
  if (d.sc.dock = .bringup ∨ d.sc.dock = .docked ∨ d.sc.dock = .holding) ∧ d.sc.undock = none then d.startSequence false
  else d

/-- The Exchange Port has entered STOPPING (R97). -/
def Dev.disableRequest (d : Dev) : Dev :=
  if d.sc.undock.isSome then d.onSc fun s => { s with disableWaits := true }
  else match d.sc.dock with
    | .bringup => d.startSequence true
    | .docked => d.startSequence true
    | .holding => d.startSequence true
    | .releasing => d.onSc fun s => { s with sequence := s.sequence.map fun q => { q with forDisable := true } }
    | .undocked => d.onSc fun s => { s with endReport := true }
    | .detecting => d.onSc fun s => { s with endReport := true }
    | .released => d.onSc fun s => { s with endReport := true }

/-- Every entry that is ACTIVE and has a keys section has shown buffer empty (R98). -/
def Dev.drained (d : Dev) (q : Sequence) : Bool :=
  Pos.all.all fun k => !((d.entry k).state == .active && (d.entry k).caps.keys.isSome) || q.empty.get k

/-- Step 4: RELEASE to the next position, going up the chain from n; then step 5 (R99). -/
def Dev.releaseFrom (n : Nat) (d : Dev) : Dev :=
  let left := Pos.all.reverse.find? fun k => k.toNat ≤ n && !(d.entry k).isVacant && !(d.entry k).releasing
  match left with
  | some k =>
    (d.onSc fun s => { s with sequence := s.sequence.map fun q => { q with step := .releasing k } }).send k .sc .release
  | none =>
    (d.onSc fun s => { s with sequence := s.sequence.map fun q => { q with step := .undocking } }).undock
      (some .released) .released []

/-- INPUT_DRAIN_END (R98, R99). -/
def Dev.inputDrainEnd (d : Dev) : Dev :=
  match d.sc.sequence with
  | some q => if q.step = .drain ∧ (d.drained q = true ∨ 100 ≤ q.timer) then d.releaseFrom d.last else d
  | none => d

/-- A RELEASE of the Session Controller has returned (R99). -/
def Dev.sequenceReleased (k : Pos) (d : Dev) : Dev :=
  match d.sc.sequence with
  | some q => if q.step = .releasing k then d.releaseFrom (k.toNat - 1) else d
  | none => d

/-- A RELEASE of the pending release has returned (R16). -/
def Dev.releaseReturned (k : Pos) (d : Dev) : Dev :=
  d.onCm fun c => { c with release := c.release.map fun r => { r with waits := r.waits.set k false } }

/-- RELEASE_COMPLETE. -/
def Dev.releaseComplete (d : Dev) : Dev :=
  match d.cm.release with
  | some r => if r.isWaiting then d else d.completeRelease
  | none => d

end Sys2Proof.Machine
end

