-- ==== Sys2Proof/Machine/Walk.lean ====
section
/-! DEFINITION. The descriptor walk (R55 to R60, R187). -/
namespace Sys2Proof.Machine

def byteOf (bs : List Byte) (i : Nat) : Byte := bs.getD i 0
def wordOf (bs : List Byte) (i : Nat) : W16 := ofLe16 (byteOf bs i) (byteOf bs (i + 1))

/-- The header of a descriptor: first record offset and total length, or a breach (R55). -/
def descriptorHeader (bs : List Byte) : Option (Nat × Nat) :=
  let first := (byteOf bs 1).toNat
  let total := (wordOf bs 2).toNat
  if byteOf bs 0 = 1 ∧ 8 ≤ first ∧ first ≤ 252 ∧ 12 ≤ total ∧ total ≤ 256 ∧ first + 4 ≤ total then some (first, total)
  else none

/-- A record header at offset o: kind, length, next offset, or a breach (R56). -/
def recordHeader (limit o : Nat) (bs : List Byte) : Option (Nat × Nat × Nat) :=
  let length := (byteOf bs 1).toNat
  let next := (byteOf bs 2).toNat
  if 4 ≤ length ∧ length ≤ 64 ∧ o + length ≤ limit ∧
      (next = 0 ∨ (o + length ≤ next ∧ next ≤ 252 ∧ next + 4 ≤ limit)) then
    some ((byteOf bs 0).toNat, length, next)
  else none

/-- The record kinds a node kind uses (R57): 1 IDENT, 2 KEYS, 3 DISPLAY, 4 POWER, 5 SUPPLY, 6 LINES. -/
def Kind.uses (k : Kind) (record : Nat) : Bool :=
  match record with
  | 1 => true
  | 2 => k.takesKeys
  | 3 => k == .display
  | 4 => k.takesKeys || k == .display
  | 5 => k == .cradle
  | 6 => k == .cradle
  | _ => false

/-! ### The checks of a used record (R57) -/

def checkIdent (bs : List Byte) : Option IdentCap :=
  let kind := Kind.ofCode (byteOf bs 4)
  if bs.length < 6 ∨ kind = .unknown then none
  else some { declared := kind, port := (byteOf bs 5).getLsbD 0, statusConsumer := (byteOf bs 5).getLsbD 1 }

def checkKeys (bs : List Byte) : Option KeysCap :=
  let count := (wordOf bs 4).toNat
  let depth := (byteOf bs 7).toNat
  if bs.length < 8 ∨ count < 1 ∨ 256 < count ∨ 8 < (byteOf bs 6).toNat ∨ depth < 8 ∨ 32 < depth then none
  else some { count := wordOf bs 4, indicators := byteOf bs 6, depth := byteOf bs 7 }

def checkDisplay (bs : List Byte) : Option DisplayCap :=
  let w := (wordOf bs 4).toNat
  let h := (wordOf bs 6).toNat
  let s := (wordOf bs 8).toNat
  if bs.length < 10 ∨ w < 16 ∨ 1280 < w ∨ w % 16 ≠ 0 ∨ h < 16 ∨ 800 < h ∨ h % 16 ≠ 0 ∨ s < 32 ∨ 512 < s then none
  else some { width := wordOf bs 4, height := wordOf bs 6, staging := wordOf bs 8 }

/-- No draw is less than the one before it, and none is above 20000. -/
def risingDraws : Nat → List W16 → Bool
  | _, [] => true
  | low, x :: xs => decide (low ≤ x.toNat) && decide (x.toNat ≤ 20000) && risingDraws x.toNat xs

def checkPower (k : Kind) (bs : List Byte) : Option PowerCap :=
  let levels := if k = .display then 15 else 7
  let draws := (List.range levels).map fun i => wordOf bs (6 + 2 * i)
  if bs.length < 6 + 2 * levels ∨ 20000 < (wordOf bs 4).toNat ∨ risingDraws 0 draws = false then none
  else some { base := wordOf bs 4, draws := draws }

def offerAt (bs : List Byte) (i : Nat) : Offer :=
  { volt := wordOf bs (5 + 5 * i), cur := wordOf bs (7 + 5 * i), ignitionOnly := (byteOf bs (9 + 5 * i)).getLsbD 0 }

/-- 5.00 to 20.00 V in 50 mV units, 0.01 to 5.00 A in 10 mA units. -/
def Offer.inRange (o : Offer) : Bool :=
  decide (100 ≤ o.volt.toNat ∧ o.volt.toNat ≤ 400 ∧ 1 ≤ o.cur.toNat ∧ o.cur.toNat ≤ 500)

def checkSupply (bs : List Byte) : Option (List Offer) :=
  let count := (byteOf bs 4).toNat
  let offers := (List.range count).map (offerAt bs)
  if bs.length < 5 ∨ count < 1 ∨ 6 < count ∨ bs.length < 5 + 5 * count ∨ offers.all Offer.inRange = false ∨
      offerAt bs 0 ≠ { volt := 100, cur := 150, ignitionOnly := false } then none
  else some offers

def checkLines (bs : List Byte) : Option Byte := if bs.length < 5 then none else some (byteOf bs 4)

/-- The summary with the section a used record builds; none is a breach. -/
def buildSection (k : Kind) (record : Nat) (bs : List Byte) (c : Caps) : Option Caps :=
  match record with
  | 1 => (checkIdent bs).map fun x => { c with ident := some x }
  | 2 => (checkKeys bs).map fun x => { c with keys := some x }
  | 3 => (checkDisplay bs).map fun x => { c with display := some x }
  | 4 => (checkPower k bs).map fun x => { c with power := some x }
  | 5 => (checkSupply bs).map fun x => { c with supply := some x }
  | 6 => (checkLines bs).map fun x => { c with lines := some x }
  | _ => some c

/-! ### The end of the walk (R58, R59) -/

/-- The fault of a completed walk, or none. -/
def walkFault (k : Pos) (e : Entry) : Option FaultCode :=
  let declared := match e.caps.ident with
    | some i => i.declared == e.kind
    | none => false
  let required := match e.kind with
    | .cradle => e.caps.supply.isSome
    | .keyboard => e.caps.keys.isSome && e.caps.power.isSome
    | .keystrip => e.caps.keys.isSome && e.caps.power.isSome
    | .display => e.caps.display.isSome && e.caps.power.isSome
    | .unknown => false
  if !declared || !required then some .badDescriptor
  else if (k == .p1) != (e.kind == .cradle) then some .badOrder
  else none

/-- The downstream segment state the ident section gives; NONE where it is absent (R4, R59). So it is too at the end of the walk
of a returned cradle behind which a fault of segment 2 keeps the segment off, which R67 shows as FAULT (log 93). -/
def Caps.segState (c : Caps) : SegState :=
  match c.ident with
  | some i => if i.port then .off else .none
  | Option.none => .none

def Dev.setWalk (k : Pos) (w : Option Walk) (d : Dev) : Dev :=
  { d with cm := { d.cm with walks := d.cm.walks.set k w } }

def Dev.onCaps (k : Pos) (f : Caps → Caps) (d : Dev) : Dev := d.onEntry k fun e => { e with caps := f e.caps }

/-- The walk of the entry that locate brought in has ended: with segment state NONE it is the end of the chain (R78). -/
def Dev.endLocateAt (k : Pos) (d : Dev) : Dev :=
  if d.cm.discovery = .locating ∧ d.cm.locate.step = .bringingIn ∧ d.cm.locate.seg = k ∧ (d.entry k).seg = .none then
    d.notReproduced false
  else d

/-- The walk ends FAILED with one record; the lines are placed when entry 1 leaves READING (R59, R168). -/
def Dev.breach (k : Pos) (code : FaultCode) (d : Dev) : Dev :=
  let d := (d.setWalk k none).onEntry k fun e => { e with seg := e.caps.segState }
  let d := d.failEntry k code
  (if k = .p1 then d.placeLines else d).endLocateAt k

/-- The chain of records has ended without a breach (R58). -/
def Dev.endWalk (k : Pos) (d : Dev) : Dev :=
  match walkFault k (d.entry k) with
  | some code => d.breach k code
  | none =>
    let d := (d.onEntry k fun e => { e with seg := e.caps.segState }).enterConfiguring k
    (if k = .p1 then d.placeLines else d).endLocateAt k

/-- The next READ of the walk. -/
def Dev.readAt (k : Pos) (w : Walk) (o : Nat) (d : Dev) : Dev :=
  (d.setWalk k (some w)).send k .cm (.read (BitVec.ofNat 8 o) w.serial)

/-- The record at the next offset, or the end of the chain of records. -/
def Dev.nextRecord (k : Pos) (w : Walk) (next : Nat) (d : Dev) : Dev :=
  if next = 0 then d.endWalk k else d.readAt k { w with at_ := .record next [] } next

/-- A used record has been read whole: its fields are checked. -/
def Dev.useRecord (k : Pos) (w : Walk) (kind length next : Nat) (bs : List Byte) (d : Dev) : Dev :=
  let e := d.entry k
  match buildSection e.kind kind (bs.take length) e.caps with
  | none => d.breach k .badDescriptor
  | some c => (d.onCaps k fun _ => c).nextRecord k { w with used := kind :: w.used } next

/-- The bytes of a READ of a record, after `buf` that came before (R56). -/
def Dev.takeRecord (k : Pos) (w : Walk) (o : Nat) (buf data : List Byte) (d : Dev) : Dev :=
  let bs := buf ++ data
  let w : Walk := if buf.isEmpty then { w with count := w.count + 1 } else w
  if 12 < w.count then d.breach k .badDescriptor
  else match recordHeader w.limit o bs with
    | none => d.breach k .badDescriptor
    | some (kind, length, next) =>
      if !(d.entry k).kind.uses kind || w.used.contains kind then d.nextRecord k w next
      else if bs.length < length then d.readAt k { w with at_ := .record o bs } (o + bs.length)
      else d.useRecord k w kind length next bs

/-- The 16 bytes of a DONE are taken and the walk goes on. -/
def Dev.takeDescriptor (k : Pos) (w : Walk) (data : List Byte) (d : Dev) : Dev :=
  match w.at_ with
  | .header =>
    match descriptorHeader data with
    | none => d.breach k .badDescriptor
    | some (first, total) => d.readAt k { w with limit := total, at_ := .record first [] } first
  | .record o buf => d.takeRecord k w o buf data

/-- The result of a READ of the walk (R60); a READ of an earlier walk is discarded. REFUSED stands for MISMATCH too (log 14). -/
def Dev.readResult (k : Pos) (offset : Byte) (serial : Nat) (code : ResultCode) (data : List Byte) (d : Dev) : Dev :=
  match d.cm.walks.get k with
  | none => d
  | some w =>
    if w.serial ≠ serial ∨ (d.entry k).state ≠ .reading then d
    else match code with
      | .done => d.takeDescriptor k w (data.take 16)
      | .noReply => d.send k .cm (.read offset serial)
      | .busyTimeout => d.breach k .badDescriptor
      | .refused => d.breach k .badDescriptor
      | .mismatch => d.breach k .badDescriptor
      | .gone => d.setWalk k none

/-- The node has taken a configuring SET: HOLD_LIMIT has the value sent (R112), and the input session of a node with keys
opens anew, since the node has restarted its numbering (R123). Both at every DONE, whatever the entry does meanwhile. -/
def Dev.tokenTaken (k : Pos) (items : List SetItem) (d : Dev) : Dev :=
  let d := d.onShadow k (Shadow.confirm items)
  if (d.entry k).caps.keys.isSome then d.openInput k else d

/-- The SET is that of the configuring under way, whose step 1 has not ended. -/
def Dev.awaitsSession (d : Dev) (k : Pos) (serial : Nat) : Bool :=
  let c := d.cm.configuring.get k
  (d.entry k).state == .configuring && c.serial == serial && !c.sessionDone

/-- Step 1 of configuring has ended: contract selection, the first apply, the status block and the lines begin (R61, R118). -/
def Dev.sessionEnds (k : Pos) (d : Dev) : Dev :=
  let d : Dev := { d with cm := { d.cm with
    configuring := d.cm.configuring.modify k fun c => { c with sessionDone := true } } }
  let d := if k = .p1 ∧ d.pcu.contract = .none then d.select else d
  let d := if d.sc.dock = .releasing then d else d.startPush k 0 true
  let d := d.sendBlock k
  (if k = .p1 then d.sendLines else d).configuringCheck k

/-- The result of the SET of step 1 of configuring (R61). The result of a SET of an earlier configuring, or one that comes while
the entry is not CONFIGURING, moves no configuring (log 67); a DONE opens the input session all the same (R123). -/
def Dev.sessionResult (k : Pos) (items : List SetItem) (serial : Nat) (code : ResultCode) (d : Dev) : Dev :=
  let own := d.awaitsSession k serial
  match code with
  | .done => if own then (d.tokenTaken k items).sessionEnds k else d.tokenTaken k items
  | .noReply => if own then d.send k .cm (.set items serial) else d
  | .refused => if own then d.failEntry k .badDescriptor else d
  | .mismatch => if own then d.failEntry k .badDescriptor else d
  | .busyTimeout => if own then d.failEntry k .badDescriptor else d
  | .gone => d

/-- The result of a SET of the Intent Reconciler, with the end of a first apply (R61, R114, R118). -/
def Dev.irSetResult (k : Pos) (items : List SetItem) (code : ResultCode) (d : Dev) : Dev :=
  let first := match (d.ir.pos.get k).push with
    | some p => p.first
    | none => false
  let d := d.settingResult k items code
  let ended := first && (d.ir.pos.get k).push.isNone
  if ended && (d.ir.pos.get k).result == .nodeRefused && (d.entry k).state == .configuring then d.failEntry k .badDescriptor
  else d.configuringCheck k

/-- The result of a STATUS_BLOCK (R61, R165). The first DONE since the entry entered CONFIGURING, at a restart too, is the one
reported, whenever the block was sent (R165). BUSY_TIMEOUT is dealt with as NO_REPLY (log 36), and REFUSED of an entry that is
neither CONFIGURING nor ACTIVE any more as that of an ACTIVE one (log 82); in CONFIGURING any REFUSED, also of a block behind
the first that was taken, makes the entry FAILED (log 99). -/
def Dev.blockResult (k : Pos) (block : W64) (code : ResultCode) (d : Dev) : Dev :=
  let deliver (d : Dev) : Dev := { d with pcu := { d.pcu with delivered := d.pcu.delivered.set k (some block) } }
  let inBringIn := (d.entry k).state == .configuring
  match code with
  | .done =>
    let d := (deliver d).onPcu fun p => { p with blockSent := block }
    let d := if inBringIn then
        d.onCm fun c => { c with configuring := c.configuring.modify k fun g => { g with blockDone := true } }
      else d
    (d.sendBlock k).configuringCheck k
  | .refused => if inBringIn then d.failEntry k .badDescriptor else deliver d
  | .mismatch => if inBringIn then d.failEntry k .badDescriptor else deliver d
  | .noReply => d.resendBlock k
  | .busyTimeout => d.resendBlock k
  | .gone => d

end Sys2Proof.Machine
end

