-- ==== Sys2Proof/Machine/Link.lean ====
section
/-! DEFINITION. Link Engine operations (chapter 2): the arbiter, the messages of a superframe, replies, misses, errors, the hand-out of an ANSWER. -/
namespace Sys2Proof.Machine

/-! ### Results taken by their submitters -/

/-- The oldest result of a kind, and the results without it. -/
def takeFirst (p : CtrlResult → Bool) : List CtrlResult → Option (CtrlResult × List CtrlResult)
  | [] => none
  | r :: rs => if p r then some (r, rs) else (takeFirst p rs).map fun x => (x.1, r :: x.2)

/-- A result that comes to a position covered by a pending release, other than that of a RELEASE, has no more meaning
than GONE (R17, log 17). -/
def Dev.resultCode (d : Dev) (r : CtrlResult) : ResultCode :=
  if (d.entry r.pos).releasing && r.payload != .release then .gone else r.code

/-- The submitter takes its oldest result of a kind; without one nothing happens (log 1). -/
def Dev.withResult (p : CtrlResult → Bool) (f : CtrlResult → ResultCode → Dev → Dev) (d : Dev) : Dev :=
  match takeFirst p d.le.results with
  | none => d
  | some (r, rest) => f r (d.resultCode r) { d with le := { d.le with results := rest } }

/-! ### Replies (R42) -/

/-- The message of a queue that is in flight: of the probe window, or of the position's own window. -/
def Dev.inFlight (d : Dev) (k : Pos) (probe : Bool) : Option Msg :=
  (d.queue k).find? fun m => m.inFlight && ((m.payload == .probe) == probe)

/-- Replace the message in flight, or take it out. -/
def Dev.setInFlight (k : Pos) (probe : Bool) (f : Msg → Option Msg) (d : Dev) : Dev :=
  d.setQueue k ((d.queue k).filterMap fun m =>
    if m.inFlight && ((m.payload == .probe) == probe) then f m else some m)

/-- A withdrawn message leaves after its superframe: the items of a push's SET become UNKNOWN, outside RELEASING (R112,
R117). -/
def Dev.withdrawnLeaves (k : Pos) (m : Msg) (d : Dev) : Dev :=
  match m.sub, m.payload with
  | .ir, .set items _ => d.learnShadow k (Shadow.forget items)
  | _, _ => d

/-- The message leaves with a result. -/
def Dev.endMessage (k : Pos) (probe : Bool) (m : Msg) (code : ResultCode) (data : List Byte) (d : Dev) : Dev :=
  (d.setInFlight k probe fun _ => none).addResult (m.result k code data)

/-- BUSY: the message stays, or ends BUSY_TIMEOUT 64 superframes after its first BUSY. -/
def Dev.busyReply (k : Pos) (probe : Bool) (m : Msg) (d : Dev) : Dev :=
  match m.firstBusy with
  | some s =>
    if 64 ≤ (d.le.stamp - s).toNat then d.endMessage k probe m .busyTimeout []
    else d.setInFlight k probe fun m => some { m with attempts := 0, inFlight := false }
  | none => d.setInFlight k probe fun m => some { m with attempts := 0, inFlight := false, firstBusy := some d.le.stamp }

/-- No valid reply: an attempt, NO_REPLY at the third; a PROBE ends after its one send (R30). -/
def Dev.missedReply (k : Pos) (probe : Bool) (m : Msg) (d : Dev) : Dev :=
  if probe ∨ 3 ≤ m.attempts + 1 then d.endMessage k probe m .noReply []
  else d.setInFlight k probe fun m => some { m with attempts := m.attempts + 1, inFlight := false }

/-- The reply, or the lack of one, of the message in flight in a window. -/
def Dev.takeReply (k : Pos) (probe : Bool) (a : Option Answer) (d : Dev) : Dev :=
  match d.inFlight k probe with
  | none => d
  | some m =>
    match a.bind (fun a => (a.replyTo m).map fun r => (r, a.payload)) with
    | some (.done, data) => d.endMessage k probe m .done data
    | some (.refused, data) => d.endMessage k probe m .refused data
    | some (.mismatch, data) => d.endMessage k probe m .mismatch data
    | some (.busy, _) =>
      if m.withdrawn then (d.setInFlight k probe fun _ => none).withdrawnLeaves k m else d.busyReply k probe m
    | none =>
      if m.withdrawn then (d.setInFlight k probe fun _ => none).withdrawnLeaves k m else d.missedReply k probe m

/-! ### Misses and errors (R45, R46, R47) -/

/-- A good ANSWER of a scheduled position. -/
def Dev.goodHit (k : Pos) (d : Dev) : Dev :=
  if d.le.current.get k then
    { d with le := { d.le with
      answered := true, interruption := 0
      miss := if d.sc.dock = .holding then d.le.miss else d.le.miss.set k 0 } }
  else d

/-- An absent or failing ANSWER of a scheduled position; the sixteenth miss sends the loss report. -/
def Dev.missHit (k : Pos) (d : Dev) : Dev :=
  if d.le.current.get k ∧ d.sc.dock ≠ .holding then
    let n := satInc (d.le.miss.get k)
    { d with le := { d.le with
      miss := d.le.miss.set k n
      lossDue := if n = 16 then d.le.lossDue.set k true else d.le.lossDue } }
  else d

/-- A CRC failure in the window of a scheduled position. -/
def Dev.errorHit (k : Pos) (d : Dev) : Dev :=
  if d.le.current.get k then
    ({ d with le := { d.le with
      winErr := d.le.winErr.set k (satInc (d.le.winErr.get k))
      cumErr := d.le.cumErr.set k (satInc (d.le.cumErr.get k)) } } : Dev).checkDegraded k
  else d

/-- No window of a scheduled position is still to come. -/
def Dev.windowsPast (d : Dev) : Bool := Pos.all.all fun k => !(d.le.windows.get k && d.le.current.get k)

def anyOf (v : Per6 Bool) : Bool := Pos.all.any v.get

/-- The window of a scheduled position has passed: when it was the last and none of them brought a good ANSWER, the
interruption count advances; at 4 it is reported. -/
def Dev.countInterruption (k : Pos) (d : Dev) : Dev :=
  if d.le.current.get k && d.windowsPast && !d.le.answered && d.linkInUse && d.sc.dock != .holding && anyOf d.le.current then
    let n := d.le.interruption + 1
    { d with le := { d.le with interruption := n, interruptionDue := d.le.interruptionDue || n == 4 } }
  else d

/-! ### Input (R124, R125, R127) -/

/-- The key-down count after an accepted entry (R127); a direction that is neither DOWN nor UP leaves it (log 65). -/
def keyDown (direction n : Byte) : Byte :=
  if direction = 0 then satInc n else if direction = 1 then (if n = 0 then 0 else n - 1) else n

/-- One input entry of a position with an open session. -/
def Dev.takeEntry (k : Pos) (e : InputEntry) (d : Dev) : Dev :=
  let s := d.ic.pos.get k
  if e.seq - s.accepted = 1 ∧ 8 ≤ d.ic.free then
    { d with ic := { d.ic with
      staging := d.ic.staging ++
        [{ kind := .key, position := posByte k, direction := e.direction, seq := e.seq, detail := e.key, stamp := d.le.stamp }]
      pos := d.ic.pos.set k { s with accepted := e.seq, keyDown := keyDown e.direction s.keyDown } } }
  else d

/-- The lost count of a position with an open session: a LOSS marker where it has changed and staging has a place. -/
def Dev.takeLost (k : Pos) (lost : W16) (d : Dev) : Dev :=
  let s := d.ic.pos.get k
  if lost = s.lost ∨ d.ic.free = 0 then d
  else
    (d.stageMarker .loss (posByte k) (lost - s.lost)).onIc fun i => { i with pos := i.pos.set k { s with lost := lost } }

/-- The parts of an ANSWER for the Input Collector; buffer empty goes to the release sequence's input drain (R98, R125). -/
def Dev.takeInput (k : Pos) (a : Answer) (d : Dev) : Dev :=
  let d := if (d.ic.pos.get k).isOpen then
      (a.entries.foldl (fun d e => d.takeEntry k e) d).takeLost k a.lost
    else d
  if a.bufferEmpty then
    d.onSc fun s => { s with sequence := s.sequence.map fun q => { q with empty := q.empty.set k true } }
  else d

/-! ### The hand-out of an ANSWER (R26) -/

def Dev.takeCradle (k : Pos) (a : Answer) (d : Dev) : Dev :=
  match a.cradle with
  | some f => if (d.entry k).kind = .cradle ∧ k = .p1 then d.takeSupply f else d
  | none => d

def Dev.takeLineLevels (k : Pos) (a : Answer) (d : Dev) : Dev :=
  match a.cradle with
  | some f => if (d.entry k).kind = .cradle ∧ k = .p1 then d.takeLevels f.levels else d
  | none => d

def Dev.takeSenseCode (k : Pos) (a : Answer) (d : Dev) : Dev :=
  match a.sense, k.next? with
  | some b, some j => if (d.entry k).isVacant then d else d.takeSense j b
  | _, _ => d

def Dev.takeDisplayFields (k : Pos) (a : Answer) (d : Dev) : Dev :=
  match a.display with
  | some f => if (d.entry k).kind = .display then d.takeDisplay k f else d
  | none => d

/-- The parts of a good ANSWER; one of a HELD or LOST entry hands on its reply and the input parts alone. -/
def Dev.handOut (k : Pos) (a : Answer) (d : Dev) : Dev :=
  let away := (d.entry k).isAway
  let d := (d.takeReply k false (some a)).takeInput k a
  if away then d
  else (((d.takeSenseCode k a).takeCradle k a).takeLineLevels k a).takeDisplayFields k a

/-- A window of the answer list passes, with what was received in it. -/
def Dev.answerWindow (k : Pos) (frame : Option (List Byte)) (d : Dev) : Dev :=
  if d.le.windows.get k then
    let d : Dev := { d with le := { d.le with windows := d.le.windows.set k false } }
    (match d.goodAnswer k frame with
    | some a => (d.goodHit k).handOut k a
    | none =>
      let d := (d.missHit k).takeReply k false none
      if frame.isSome then d.errorHit k else d).countInterruption k
  else d

/-- The probe answer window passes (R26, R30). -/
def Dev.probeAnswer (frame : Option (List Byte)) (d : Dev) : Dev :=
  match d.le.probeWindow with
  | none => d
  | some k =>
    ({ d with le := { d.le with probeWindow := none } } : Dev).takeReply k true (goodProbeAnswer k frame)

/-- The windows nothing was received in are past at the boundary (log 3). -/
def Dev.closeWindows (d : Dev) : Dev := (Pos.all.foldl (fun d k => d.answerWindow k none) d).probeAnswer none

/-! ### The CTRL arbiter (R41) -/

/-- The place of the oldest session message of a queue. -/
def oldestSession (q : List Msg) : Option Nat := q.findIdx? fun m => m.payload.isSession

def msgAt (q : List Msg) (i : Nat) : Option Msg := q[i]?

/-- Step 1: session messages in chain order, one PROBE at most, four places. -/
def Dev.chooseSession (d : Dev) : List (Pos × Nat) :=
  (Pos.all.foldl
    (fun (acc : List (Pos × Nat) × Bool) k =>
      match oldestSession (d.queue k) with
      | none => acc
      | some i =>
        let isProbe := (msgAt (d.queue k) i).any fun m => m.payload == .probe
        if 4 ≤ acc.1.length ∨ (isProbe = true ∧ acc.2 = true) then acc
        else (acc.1 ++ [(k, i)], acc.2 || isProbe)) ([], false)).1

/-- The positions, beginning after one. -/
def rotation (p : Pos) : List Pos :=
  (Pos.all.filter fun k => p.toNat < k.toNat) ++ Pos.all.filter fun k => k.toNat ≤ p.toNat

/-- A queue offers its head in step 2. A waiting SUPPLY waits for the first cradle ANSWER after a resume (R160, log 29). -/
def Dev.offersHead (d : Dev) (k : Pos) : Bool :=
  match d.queue k with
  | [] => false
  | m :: _ =>
    !m.payload.isSession && !d.frozen k && d.le.current.get k &&
      !(k == .p1 && d.pcu.resumed && m.isSupply)

/-- Step 2: heads, round robin from the position after the pointer. -/
def Dev.chooseHeads (d : Dev) (given : List (Pos × Nat)) : List Pos :=
  ((rotation d.le.pointer).filter fun k => !(given.any fun g => g.1 == k) && d.offersHead k).take (4 - given.length)

/-- The messages chosen, in the order they go on the wire. -/
def Dev.chosen (d : Dev) : List (Pos × Nat) :=
  d.chooseSession ++ (d.chooseHeads d.chooseSession).map fun k => (k, 0)

/-- A chosen message is sent: it takes its tag the first time (R25) and is in flight. -/
def Dev.sendMessage (k : Pos) (i : Nat) (d : Dev) : Dev :=
  match msgAt (d.queue k) i with
  | none => d
  | some m =>
    let t := d.le.tags.get k
    let d := d.setQueue k ((d.queue k).set i { m with tag := some (m.tag.getD t), inFlight := true })
    if m.tag.isNone then { d with le := { d.le with tags := d.le.tags.set k (t + 1) } } else d

/-- The CTRL bytes of a sent message. -/
def Dev.ctrlOf (d : Dev) (c : Pos × Nat) : List Byte :=
  match msgAt (d.queue c.1) c.2 with
  | none => []
  | some m => ctrlBytes c.1 (m.tag.getD 0) m.payload

/-! ### The messages of a superframe (R22, R24, R25) -/

/-- Positions addressed by a RESUME or RELEASE join the answer list. -/
def Payload.addsToList : Payload → Bool
  | .resume _ => true
  | .release => true
  | .probe => false | .read _ _ => false | .set _ _ => false | .segment _ _ => false | .supply _ _ _ _ => false
  | .commit _ => false | .discard => false | .statusBlock _ => false

/-- The answer list of the superframe. -/
def Dev.answerList (d : Dev) (cs : List (Pos × Nat)) : Per6 Bool :=
  Per6.ofFn fun k => d.le.current.get k ||
    cs.any fun c => c.1 == k && (msgAt (d.queue k) c.2).any fun m => m.payload.addsToList

def Dev.probeOf (d : Dev) (cs : List (Pos × Nat)) : Option Pos :=
  (cs.find? fun c => (msgAt (d.queue c.1) c.2).any fun m => m.payload == .probe).map (·.1)

/-- The tiles that go out: the ready list of a posting in SENDING, while its target is scheduled and not frozen (R25, R145). -/
def Dev.tilesOut (d : Dev) : List Tile :=
  match d.dtu.posting with
  | none => []
  | some p =>
    if p.state = .sending ∧ d.le.current.get p.target ∧ d.frozen p.target = false then p.ready.take 12 else []

/-- The TILE bytes of a tile of the posting. -/
def Dev.tileOf (d : Dev) (p : Posting) (t : Tile) : List Byte :=
  let place := p.place (p.batch * d.staging p.target + t.index)
  tileBytes p.tag t.index place.1 place.2 t.pixels

/-- The send point moves past the tiles sent (R145). -/
def Dev.advanceTiles (n : Nat) (d : Dev) : Dev :=
  d.onPosting fun p => { p with sendPoint := p.sendPoint + n, tilesSent := satAdd16 p.tilesSent n, ready := p.ready.drop n }

/-- The acknowledgment of a position: 0 while its session is closed (R126). -/
def Dev.ackOf (d : Dev) (k : Pos) : Byte :=
  if (d.ic.pos.get k).isOpen then (d.ic.pos.get k).accepted else 0

def lastServed (heads : List Pos) (p : Pos) : Pos := heads.getLast?.getD p

/-- Everything a superframe sends while the link is in use. Without TILE messages the tile target has no value (R24, R181,
log 50). -/
def Dev.sendTraffic (d : Dev) : Dev :=
  let session := d.chooseSession
  let heads := d.chooseHeads session
  let cs := session ++ heads.map fun k => (k, 0)
  let d := cs.foldl (fun d c => d.sendMessage c.1 c.2) d
  let list := d.answerList cs
  let tiles := d.tilesOut
  let target : Byte := match d.dtu.posting with
    | some p => if tiles.isEmpty then 0xFF else posByte p.target
    | none => 0xFF
  let tileMsgs := match d.dtu.posting with
    | some p => tiles.map (d.tileOf p)
    | none => []
  let sync := syncBytes d.le.stamp d.le.gen list cs.length tiles.length target (d.sc.dock == .holding) (Per6.ofFn d.ackOf)
  let d : Dev := { d with le := { d.le with
    pointer := lastServed heads d.le.pointer
    windows := list, probeWindow := d.probeOf cs, answered := false
    wire := sync :: cs.map d.ctrlOf ++ tileMsgs } }
  d.advanceTiles tiles.length

/-- A quiet superframe: nothing is sent (R22). -/
def Dev.sendNothing (d : Dev) : Dev :=
  { d with le := { d.le with windows := Per6.const false, probeWindow := none, answered := false, wire := [] } }

end Sys2Proof.Machine
end

