-- ==== Sys2Proof/Machine/Window.lean ====
section
/-! DEFINITION. The access engine and its arbiter (chapter 11), the sections and words the blocks have to write, window stall, the part states. -/
namespace Sys2Proof.Machine

/-! ### Sections (R19, R184) -/

def Pub.sec (p : Pub) : SecId → Sec
  | .entry k => p.entry.get k
  | .applied k => p.applied.get k
  | .globalApplied => p.globalApplied
  | .chain => p.chain
  | .power => p.power
  | .lines => p.lines
  | .slot i => p.slots.getD i Sec.init

def Pub.onSec (id : SecId) (f : Sec → Sec) (p : Pub) : Pub :=
  match id with
  | .entry k => { p with entry := p.entry.modify k f }
  | .applied k => { p with applied := p.applied.modify k f }
  | .globalApplied => { p with globalApplied := f p.globalApplied }
  | .chain => { p with chain := f p.chain }
  | .power => { p with power := f p.power }
  | .lines => { p with lines := f p.lines }
  | .slot i => { p with slots := p.slots.modify i f }

def Dev.onSec (id : SecId) (f : Sec → Sec) (d : Dev) : Dev := d.onPub fun p => p.onSec id f

def slotOffset (i : Nat) : Nat := 0x1000 + 0x40 * i

/-- The window offset of a section's generation pair. -/
def SecId.offset : SecId → Nat
  | .entry k => entryOffset k
  | .applied k => entryOffset k + 0xA0
  | .globalApplied => 0x300
  | .chain => 0x320
  | .power => 0x350
  | .lines => 0x390
  | .slot i => slotOffset i

/-- The fields of a section as they stand. -/
def Dev.secFields (d : Dev) : SecId → List Byte
  | .entry k => d.entryFields k
  | .applied k => d.appliedFields k
  | .globalApplied => d.globalAppliedFields
  | .chain => d.chainFields
  | .power => d.powerFields
  | .lines => d.linesFields
  | .slot i => slotFields (d.cm.log.inSlot i)

/-- The next step of a section's write, if one is under way or wanted. -/
def Sec.nextStep (s : Sec) : Option SecStep :=
  match s.step with
  | .idle => if s.dirty then some .openGen else none
  | .openGen => some .openGen
  | .fields => some .fields
  | .close => some .close

def Dev.secAccess (d : Dev) (id : SecId) : Option Access := (d.pub.sec id).nextStep.map fun st => .publish id st

/-- A section whose write has begun. -/
def Dev.secBegun (d : Dev) (id : SecId) : Option Access :=
  if (d.pub.sec id).step = .idle then none else d.secAccess id

/-- The first access of a list of sections, one begun before any other. -/
def Dev.firstSec (d : Dev) (ids : List SecId) : Option Access :=
  (ids.findSome? d.secBegun).orElse fun _ => ids.findSome? d.secAccess

/-- The open generation of a section: the access that begins its write. -/
def Access.opens : Access → Bool
  | .publish _ .openGen => true
  | _ => false

/-- What the entry section shows that R19 and R20 compare. -/
def Dev.entryNow (d : Dev) (k : Pos) : EntryWritten :=
  { state := (d.entry k).state, identity := (d.entry k).identity, miss := d.le.miss.get k, winErr := d.le.winErr.get k
    cumErr := d.le.cumErr.get k, degraded := d.le.degraded.get k }

/-! ### What each requester has to do (R177): the order in which it offers it is log 9 -/

def Dev.headerAccess (want : Bool) (w : HeaderWord) : Option Access := if want then some (.header w) else none

def firstAccess (l : List (Option Access)) : Option Access := l.findSome? id

/-- Exchange Port, in RUNNING or STOPPING with no stall standing. -/
def Dev.xpWork (d : Dev) : Option Access :=
  firstAccess
    ([Dev.headerAccess d.pub.dockState .dockState, Dev.headerAccess d.pub.session .session]
      ++ Cause.all.map (fun c => Dev.headerAccess (d.pub.counters.get c) (.counter c))
      ++ [d.firstSec [.power, .lines]])

/-- The slots of the log's records, in record number order (R81). -/
def Dev.slotIds (d : Dev) : List SecId := d.cm.log.records.map fun r => .slot (slotOf r.number)

/-- The next access of the fault slots: that of the lowest record number among the slots whose write is begun or wanted. A
slot overwritten while its write was under way waits for its new number's turn (R81). -/
def Dev.slotAccess (d : Dev) : Option Access := d.slotIds.findSome? d.secAccess

/-- The total, where one is to be written. -/
def Dev.totalAccess (d : Dev) : Option Access :=
  if d.cm.log.total ≠ d.cm.log.written then some (.faultTotal d.cm.log.total) else none

/-- The next access of the fault log: the slots, then the total (R81). -/
def Dev.logAccess (d : Dev) : Option Access := firstAccess [d.slotAccess, d.totalAccess]

/-- Chain Manager with Session Controller: a write begun, then the others, the slots in record number order and before the
total that counts them (R81). -/
def Dev.cmWork (d : Dev) : Option Access :=
  let ids := Pos.all.map SecId.entry ++ [.chain]
  firstAccess
    [ids.findSome? d.secBegun, d.slotAccess.filter fun a => !a.opens, ids.findSome? d.secAccess, d.slotAccess, d.totalAccess]

/-- Intent Reconciler: a write begun, the read under way, then other writes. -/
def Dev.irWork (d : Dev) : Option Access :=
  let ids := SecId.globalApplied :: Pos.all.map SecId.applied
  firstAccess
    [ids.findSome? d.secBegun, d.ir.pass.map fun p => .intent p.record p.step, ids.findSome? d.secAccess,
      Dev.headerAccess d.pub.torn .torn]

/-- The last valid taken count leaves room for the next entry (R131). -/
def Ic.hasRoom (i : Ic) : Bool :=
  match i.taken with
  | some t => !i.staging.isEmpty && !i.invalid && decide ((i.writeCount - t).toNat < 512)
  | none => false

/-- The next entry may be written: after a stall, not before a taken count has been read (R131, R132). -/
def Ic.mayWrite (i : Ic) : Bool := i.hasRoom && !i.takenFirst

/-- The next entry waits for the taken count read after a stall (R132). It keeps its place ahead of the header words (R177). -/
def Ic.awaitsCount (i : Ic) : Bool := i.hasRoom && i.takenFirst

/-- Input Collector: the taken count due, the count that covers what is written, the next entry, its other words. -/
def Dev.icWork (d : Dev) : Option Access :=
  firstAccess
    [if d.ic.takenDue then some .takenCount else none,
      if d.ic.written ≠ d.ic.writeCount then some (.writeCount d.ic.writeCount) else none,
      if d.ic.mayWrite then some .journal else none,
      Dev.headerAccess (d.pub.dropped && !d.ic.awaitsCount) .dropped,
      Dev.headerAccess (d.pub.journalCount && !d.ic.awaitsCount) .journalCount]

/-- The next pixel read of the batch: its tile's rows in host memory (R143, R144). -/
def Dev.pixelAccess (d : Dev) : Option Access :=
  match d.dtu.posting with
  | none => none
  | some p =>
    let i := p.sendPoint + p.ready.length
    if (p.state = .gate ∨ p.state = .sending) ∧ p.ready.length < 12 ∧ i < p.size then
      some (.pixels i d.dtu.readyNo (p.rows (p.batch * d.staging p.target + i)))
    else none

/-- The read at the cursor (R139). -/
def Dev.cursorAccess (d : Dev) : Option Access :=
  if d.dtu.readDue = false ∨ d.dtu.outcome.isSome then none
  else match d.dtu.cursor with
    | none => some .firstIndex
    | some c => match d.dtu.phase with
      | .at => some (.record c)
      | .taken => none
      | .after => some (.nextIndex c)

/-- The two steps of an outcome (R142). -/
def Dev.outcomeAccess (d : Dev) : Option Access :=
  match d.dtu.cursor, d.dtu.outcome with
  | some c, some o => some (if o.fieldsWritten then .outcomeSerial c else .outcomeFields c)
  | _, _ => none

def Dev.dtuWork (d : Dev) : Option Access :=
  firstAccess
    [d.outcomeAccess, d.cursorAccess, Dev.headerAccess d.pub.cursor .cursor, Dev.headerAccess d.pub.hostTag .hostTag, d.pixelAccess]

def Dev.work (d : Dev) (r : Requester) : Option Access :=
  match r with
  | .xp => d.xpWork
  | .cm => d.cmWork
  | .ir => d.irWork
  | .ic => d.icWork
  | .dtu => d.dtuWork

/-! ### Offers and the arbiter (R177) -/

/-- The access in the engine is one of this requester. -/
def Xp.serves (x : Xp) (r : Requester) : Bool := x.engine.isSome && x.lastServed == r

def Dev.setOffer (r : Requester) (a : Option Access) (d : Dev) : Dev :=
  d.onXp fun x => { x with offered := x.offered.set r a }

/-- A requester with no request outstanding offers what it has to do next. -/
def Dev.offerOne (r : Requester) (d : Dev) : Dev :=
  if (d.xp.offered.get r).isNone && !d.xp.serves r then d.setOffer r (d.work r) else d

/-- What every requester of a working part does at the end of a step: a request once offered keeps its place before
anything that comes to its requester later. -/
def Dev.offerAll (d : Dev) : Dev := if d.working then Requester.all.foldl (fun d r => d.offerOne r) d else d

def Access.isPixels : Access → Bool
  | .pixels _ _ _ => true
  | _ => false

/-- A write of the fault log: a slot or the total. -/
def Access.isLog : Access → Bool
  | .faultTotal _ => true
  | .publish (.slot _) _ => true
  | _ => false

/-- What STARTING has to do next: the check of the layout version, then the initial writes (R174). -/
def Xp.startingAccess (x : Xp) : Option Access :=
  if x.layoutOffered then some (.layout false)
  else match x.initial with
    | some n => if n < initialWrites then some (.initial n) else none
    | none => none

/-- The pixel read of the Display Transfer Unit during a stall: no other request of its own holds it back. -/
def Dev.stallPixels (d : Dev) : Option Access :=
  match d.xp.offered.dtu with
  | some a => if a.isPixels then some a else d.pixelAccess
  | none => d.pixelAccess

/-- What the Exchange Port asks for during a stall: the write of the stall area, offered at the stall, then the retry that has
fallen due (R179). -/
def Xp.stallAccess (x : Xp) : Option Access :=
  if x.stallAreaOwed then some (.header .stallArea) else if x.retryOffered then some (.layout true) else none

/-- The request of a requester that the engine may take: in STARTING the Exchange Port's checks and writes, while a stall
stands the write of the stall area, stall retries and pixel reads alone (R179), otherwise what the requester has offered. -/
def Dev.nextAccess (d : Dev) (r : Requester) : Option Access :=
  match d.xp.part with
  | .disabled => none
  | .starting => if r = .xp then d.xp.startingAccess else none
  | .running | .stopping =>
    if d.xp.windowStall then
      match r with
      | .xp => d.xp.stallAccess
      | .dtu => d.stallPixels
      | .cm => none | .ir => none | .ic => none
    else d.xp.offered.get r

/-- The requesters in the arbiter's order, beginning after the one served last. -/
def Requester.after : Requester → List Requester
  | .xp => [.cm, .ir, .ic, .dtu, .xp]
  | .cm => [.ir, .ic, .dtu, .xp, .cm]
  | .ir => [.ic, .dtu, .xp, .cm, .ir]
  | .ic => [.dtu, .xp, .cm, .ir, .ic]
  | .dtu => [.xp, .cm, .ir, .ic, .dtu]

/-- The access the engine takes next, when it is free: the next requester with one waiting, after the one served last (R177).
The write of the stall area, where the stall has cleared without it, comes before any waiting request (R179). -/
def Dev.nextGrant (d : Dev) : Option (Requester × Access) :=
  if d.xp.engine.isSome then none
  else if d.working && d.xp.stallAreaOwed && !d.xp.windowStall then some (.xp, .header .stallArea)
  else d.xp.lastServed.after.findSome? fun r => (d.nextAccess r).map fun a => (r, a)

/-- The engine takes the request: it no longer waits. -/
def Dev.serve (r : Requester) (a : Access) (d : Dev) : Dev :=
  d.onXp fun x => { x with
    lastServed := r
    layoutOffered := if a = .layout false then false else x.layoutOffered
    retryOffered := if a = .layout true then false else x.retryOffered
    stallAreaOwed := if a = .header .stallArea then false else x.stallAreaOwed
    offered := if x.offered.get r = some a then x.offered.set r none else x.offered }

/-! ### Issuing an access -/

/-- A message whose counter words have been written, or that meets a window stall, is sent (R180); so is one that was decided at a
boundary before NOTICE_ON, NOTICE_MASK or MSI enable was changed (the model's choice, log 110). -/
def Dev.sendNotice (d : Dev) : Dev :=
  match d.xp.msiWait with
  | none => d
  | some w =>
    if d.xp.windowStall ∨ Cause.all.all (fun c => !w.get c) = true then
      d.onXp fun x => { x with msiWait := none, msiSent := x.msiSent + 1 }
    else d

/-- A counter word has been written; a message may have waited for it. -/
def Dev.counterWritten (c : Cause) (d : Dev) : Dev :=
  ((d.onPub fun p => { p with counters := p.counters.set c false }).onXp fun x =>
    { x with msiWait := x.msiWait.map fun w => w.set c false }).sendNotice

/-- A header word no longer waits. -/
def Dev.wordWritten (w : HeaderWord) (d : Dev) : Dev :=
  match w with
  | .dockState => d.onPub fun p => { p with dockState := false }
  | .session => d.onPub fun p => { p with session := false }
  | .counter c => d.counterWritten c
  | .stallArea => d
  | .dropped => d.onPub fun p => { p with dropped := false }
  | .journalCount => d.onPub fun p => { p with journalCount := false }
  | .cursor => d.onPub fun p => { p with cursor := false }
  | .hostTag => d.onPub fun p => { p with hostTag := false }
  | .torn => d.onPub fun p => { p with torn := false }

/-- The open generation is written, advanced by 1 (R19). -/
def Dev.issueOpen (id : SecId) (d : Dev) : Dev :=
  let g := (d.pub.sec id).gen + 1
  (d.writeWindow id.offset (le32 g)).onSec id fun s => { s with gen := g, step := .fields }

/-- The fields are written with the values of this moment; a later change wants one further write (R19). -/
def Dev.issueFields (id : SecId) (d : Dev) : Dev :=
  let d' := (d.writeWindow (id.offset + 8) (d.secFields id)).onSec id fun s => { s with dirty := false, step := .close }
  match id with
  | .entry k => d'.onPub fun p => { p with entryCarried := p.entryCarried.set k (d.entryNow k) }
  | _ => d'

/-- The close generation is written and the write is finished. -/
def Dev.issueClose (id : SecId) (d : Dev) : Dev :=
  (d.writeWindow (id.offset + 4) (le32 (d.pub.sec id).gen)).onSec id fun s => { s with step := .idle }

/-- The sections whose close has a step of its own. -/
def SecId.hasRow : SecId → Bool
  | .entry _ => true
  | .applied _ => true
  | .globalApplied => true
  | .chain => false | .power => false | .lines => false | .slot _ => false

def Dev.setEngine (a : Option Access) (d : Dev) : Dev := d.onXp fun x => { x with engine := a }

/-- The n-th initial write of STARTING; with the part header the counters are written as 0 (R176, R180). -/
def Dev.issueInitial (n : Nat) (d : Dev) : Dev :=
  let d := match d.initialWrite n with
    | some (o, bs) => d.writeWindow o bs
    | none => d
  d.onXp fun x => { x with
    initial := some (n + 1)
    counters := if n = 0 then Per9.const 0 else x.counters }

def updateOffset (c : BitVec 6) : Nat := 0x4000 + 0x40 * c.toNat

/-- The outcome fields of the record at the cursor (R142). -/
def Dev.issueOutcome (c : BitVec 6) (d : Dev) : Dev :=
  match d.dtu.outcome with
  | none => d
  | some o =>
    (d.writeWindow (updateOffset c + 0x30) (outcomeBytes o.outcome o.reason o.split o.commits o.tilesSent o.stamp)).onDtu
      fun t => { t with outcome := some { o with fieldsWritten := true } }

/-- The engine takes an access: a write that has no completion step of its own finishes at once; any other stays in the
engine until its step (R177). -/
def Dev.issue (a : Access) (d : Dev) : Dev :=
  match a with
  | .initial n => d.issueInitial n
  | .header w => (d.writeWindow w.offset (d.headerWord w)).wordWritten w
  | .publish id .openGen => d.issueOpen id
  | .publish id .fields => d.issueFields id
  | .publish id .close => if id.hasRow then d.setEngine (some a) else d.issueClose id
  | .publish _ .idle => d
  | .outcomeFields c => d.issueOutcome c
  | .layout _ => d.setEngine (some a)
  | .takenCount => (d.onIc fun i => { i with takenDue := false }).setEngine (some a)
  | .firstIndex => (d.onDtu fun t => { t with readDue := false }).setEngine (some a)
  | .record _ => (d.onDtu fun t => { t with readDue := false }).setEngine (some a)
  | .nextIndex _ => (d.onDtu fun t => { t with readDue := false }).setEngine (some a)
  | .faultTotal _ => d.setEngine (some a)
  | .intent _ _ => d.setEngine (some a)
  | .journal => d.setEngine (some a)
  | .writeCount _ => d.setEngine (some a)
  | .outcomeSerial _ => d.setEngine (some a)
  | .pixels _ _ _ => d.setEngine (some a)

/-! ### Window stall (R179) -/

/-- The area of R176 an access lies in. -/
def Access.area : Access → StallArea
  | .layout _ => .hostHeader
  | .initial n => if n = 0 then .partHeader else if n = 1 then .globalState else if n < 8 then .nodeState
      else if n < 12 then .faultLog else if n < 44 then .journal else .updatePool
  | .header _ => .partHeader
  | .publish (.entry _) _ => .nodeState
  | .publish (.applied _) _ => .nodeState
  | .publish (.slot _) _ => .faultLog
  | .publish _ _ => .globalState
  | .faultTotal _ => .globalState
  | .intent .global _ => .globalIntent
  | .intent (.node _) _ => .nodeIntent
  | .takenCount => .hostHeader
  | .journal => .journal
  | .writeCount _ => .partHeader
  | .firstIndex => .hostHeader
  | .record _ => .updatePool
  | .nextIndex _ => .updatePool
  | .outcomeFields _ => .updatePool
  | .outcomeSerial _ => .updatePool
  | .pixels _ _ _ => .none

/-- The failure goes back to its requester: a read is not taken, and the pass of an intent read ends; a section whose close
failed goes on from its fields, under the same generation (R106, R179, log 49). -/
def Dev.accessFailed (a : Access) (d : Dev) : Dev :=
  match a with
  | .intent _ _ => d.onIr fun i => { i with pass := none }
  | .publish id .close => d.onSec id fun s => { s with step := .fields }
  | _ => d

/-- The request a requester offers in place of one that failed (R179): a write again, with the values then current, and a
cursor read again. A journal entry waits for the taken count (`Ic.awaitsCount`). -/
def Dev.again (d : Dev) : Access → Option Access
  | .publish id .close => some (.publish id .fields)
  | .writeCount _ => some (.writeCount d.ic.writeCount)
  | .layout _ => none
  | .initial _ => none
  | .faultTotal _ => some (.faultTotal d.cm.log.total)
  | .intent _ _ => none
  | .takenCount => none
  | .journal => none
  | .pixels _ _ _ => none
  | .header w => if w = .stallArea then none else some (.header w)
  | .publish id .openGen => some (.publish id .openGen)
  | .publish id .fields => some (.publish id .fields)
  | .publish _ .idle => none
  | .firstIndex => some .firstIndex
  | .record c => some (.record c)
  | .nextIndex c => some (.nextIndex c)
  | .outcomeFields c => some (.outcomeFields c)
  | .outcomeSerial c => some (.outcomeSerial c)

/-- The access of a requester has failed: what it offers in place of it. The write of the stall area is none of its requests,
and what it had on offer keeps its place (R177). -/
def Dev.offerAgain (r : Requester) (a : Access) (d : Dev) : Dev :=
  if a = .header .stallArea then d else (d.accessFailed a).setOffer r (d.again a)

/-- What stays on offer through a stall: all but a journal entry, which waits for a taken count read after it (R132). -/
def Xp.stallOffers (x : Xp) : PerRequester (Option Access) :=
  { x.offered with ic := x.offered.ic.filter fun a => a != .journal }

/-- A stall has cleared: a write of the fault log on offer keeps its place, and is now the first the log has to make, the
slots going in record number order and before the total (R81, R177, R179). -/
def Dev.reofferLog (d : Dev) : Dev :=
  if d.xp.offered.cm.any Access.isLog then d.setOffer .cm d.logAccess else d

/-- The part enters window stall at a failed access of a requester (R179). A scan that has fallen due and has not been handed to the
requesters is dropped (the model's choice, log 111). -/
def Dev.enterStall (r : Requester) (a : Access) (d : Dev) : Dev :=
  let d := d.offerAgain r a
  ({ d with
    xp := { d.xp with
      windowStall := true, stallArea := a.area, stallAreaOwed := true, stallAreaLater := false, retryTimer := 0
      retryDue := false, retryOffered := false, scanDue := false, scanNext := false
      offered := d.xp.stallOffers }
    ic := { d.ic with takenFirst := true, takenDue := false } } : Dev).sendNotice

/-- STARTING ends in DISABLED with WINDOW_BAD (R174). -/
def Dev.startingFails (d : Dev) : Dev :=
  d.onXp fun x => { x with
    part := .disabled, windowBad := true, enable := false, layoutOffered := false, initial := none, engine := none
    base := none }

/-- A stall retry that fails, or returns another value (R179). -/
def Dev.retryFailed (d : Dev) : Dev := d.onXp fun x => { x with retryTimer := 0 }

/-- A pixel read for ready list number n fails: the posting ends SOURCE_READ unless the list has been emptied (R144, R151). -/
def Dev.pixelsFailed (n : Nat) (d : Dev) : Dev := if n = d.dtu.readyNo then d.failPosting .sourceRead else d

/-- An access of the window fails, its engine free again (R179). -/
def Dev.fails (r : Requester) (a : Access) (d : Dev) : Dev :=
  match d.xp.part with
  | .disabled => d
  | .starting => d.startingFails
  | .running | .stopping =>
    if d.xp.windowStall = false then d.enterStall r a
    else if a = .header .stallArea then d.onXp fun x => { x with stallAreaLater := true }
    else d.retryFailed

/-- WINDOW_STALL: the access in the engine fails, or the one it would take next. A pixel read fails by PIXEL_READ_COMPLETE. -/
def Dev.windowFailure (d : Dev) : Dev :=
  match d.xp.engine with
  | some a => if a.isPixels then d else (d.setEngine none).fails d.xp.lastServed a
  | none =>
    match d.nextGrant with
    | none => d
    | some (r, a) => if a.isPixels then d else (d.serve r a).fails r a

/-- With bus mastering disabled the engine cannot issue the access, and it fails (R179). -/
def Dev.refuseAccess (r : Requester) (a : Access) (d : Dev) : Dev :=
  match a with
  | .pixels _ n _ => d.pixelsFailed n
  | a => d.fails r a

/-- WINDOW_ACCESS_GRANT. -/
def Dev.grant (d : Dev) : Dev :=
  match d.nextGrant with
  | none => d
  | some (r, a) => if d.pcie.busMaster then (d.serve r a).issue a else (d.serve r a).refuseAccess r a

/-- STALL_RETRY: a retry the timer made due begins the next 100 superframes; one that only a nudge made due leaves the timer
(R179). -/
def Dev.stallRetry (d : Dev) : Dev :=
  if d.working = true ∧ d.xp.windowStall = true ∧ (100 ≤ d.xp.retryTimer ∨ d.xp.retryDue = true) then
    d.onXp fun x => { x with
      retryOffered := true, retryTimer := if 100 ≤ x.retryTimer then 0 else x.retryTimer, retryDue := false }
  else d

/-- STALL_RETRY_COMPLETE: 0001H clears the stall; the stall area not written at the stall is written before any other
request, a scan falls due in the next superframe, and a write of the fault log on offer is chosen anew. -/
def Dev.stallRetryComplete (v : Option W16) (d : Dev) : Dev :=
  if d.xp.engine ≠ some (.layout true) then d
  else if v = some 1 then
    ((d.setEngine none).onXp fun x => { x with
      windowStall := false, retryTimer := 0, retryDue := false, scanNext := true
      stallAreaOwed := x.stallAreaOwed || x.stallAreaLater, stallAreaLater := false }).reofferLog
  else (d.setEngine none).retryFailed

/-! ### Part states (R174, R175) -/

/-- STARTING is entered: the base is latched and checked (R174). -/
def Dev.enterStarting (d : Dev) : Dev :=
  let base : W64 := d.xp.windowHigh ++ d.xp.windowLow
  let d : Dev := { d with
    pub := Pub.reset
    xp := { d.xp with
      part := .starting, windowBad := false, windowStall := false, base := some base, stallArea := .none
      stallAreaOwed := false, stallAreaLater := false, layoutOffered := true, initial := none
      offered := PerRequester.const none, engine := none } }
  if base = 0 ∨ base.extractLsb' 0 16 ≠ 0 then d.startingFails else d

/-- LAYOUT_VERSION_READ. -/
def Dev.layoutRead (v : Option W16) (d : Dev) : Dev :=
  if d.xp.part ≠ .starting ∨ d.xp.engine ≠ some (.layout false) then d
  else if v = some 1 then d.onXp fun x => { x with engine := none, initial := some 0 }
  else d.startingFails

/-- STARTING_COMPLETE: every write has been issued and the part enters RUNNING at stamp 0 (R22, R174, R178). -/
def Dev.enterRunning (d : Dev) : Dev :=
  if d.xp.part = .starting ∧ d.xp.initial = some initialWrites then
    { d with
      xp := { d.xp with part := .running, initial := none, scanDue := true, nudged := false }
      le := { d.le with stamp := 0 } }
  else d

/-- What every way to DISABLED keeps: host memory, the PCIe configuration, the kept serials, the count of free choices. -/
def Dev.resetKeeping (d : Dev) : Dev :=
  { Dev.reset with
    mem := d.mem, pcie := d.pcie, free := d.free
    cm := { Cm.reset with chainSerial := d.cm.chainSerial, locateSerial := d.cm.locateSerial }
    sc := { Sc.reset with releaseSerial := d.sc.releaseSerial } }

/-- A function reset (R175). -/
def Dev.functionReset (d : Dev) : Dev := d.resetKeeping

/-- A power-on reset: the PCIe configuration too (R175). -/
def Dev.powerOnReset (d : Dev) : Dev := { d.resetKeeping with pcie := Dev.reset.pcie }

/-- STOPPING reaches DISABLED (R103, R174). A message that still waits for its counter words is not sent (log 100). -/
def Dev.enterDisabled (d : Dev) : Dev :=
  let r := d.resetKeeping
  { r with
    xp := { r.xp with
      enable := d.xp.enable, noticeOn := d.xp.noticeOn, noticeMask := d.xp.noticeMask, windowLow := d.xp.windowLow
      windowHigh := d.xp.windowHigh, windowBad := d.xp.windowBad, windowStall := d.xp.windowStall
      counters := d.xp.counters, msiSent := d.xp.msiSent }
    sc := { r.sc with session := d.sc.session } }

/-- CONTROL.ENABLE written 1 (R174). -/
def Dev.enableOn (d : Dev) : Dev :=
  let d := d.onXp fun x => { x with enable := true }
  if d.xp.part = .disabled then d.enterStarting else d

/-- CONTROL.ENABLE written 0 (R174). -/
def Dev.enableOff (d : Dev) : Dev :=
  let d := d.onXp fun x => { x with enable := false }
  match d.xp.part with
  | .disabled => d
  | .starting => d.onXp fun x => { x with part := .disabled, layoutOffered := false, initial := none, engine := none, base := none }
  | .running => (d.onXp fun x => { x with part := .stopping }).disableRequest
  | .stopping => d

/-- SEQUENCE_ENDED: the final drain begins (R134). -/
def Dev.sequenceEnded (d : Dev) : Dev :=
  if d.xp.part = .stopping ∧ d.sc.endReport = true then
    { d with sc := { d.sc with endReport := false }, ic := { d.ic.askTaken with drain := some 0 } }
  else d

/-- No entry write or write count write is outstanding. -/
def Dev.inputWritten (d : Dev) : Bool :=
  d.ic.staging.isEmpty && d.ic.written == d.ic.writeCount

/-- FINAL_DRAIN_END (R134, R174). -/
def Dev.finalDrainEnd (d : Dev) : Dev :=
  match d.ic.drain with
  | none => d
  | some t =>
    if d.xp.part = .stopping ∧ (d.inputWritten = true ∨ 100 ≤ t) then
      let d := d.enterDisabled
      if d.xp.enable then d.enterStarting else d
    else d

/-! ### Registers (R173, R180) -/

/-- NOTICE_ON takes effect at once; 0 clears NOTICE_PENDING. -/
def Dev.setNoticeOn (on : Bool) (d : Dev) : Dev :=
  d.onXp fun x => { x with noticeOn := on, noticePending := x.noticePending && on }

def Dev.setNoticeMask (on : Bool) (d : Dev) : Dev := d.onXp fun x => { x with noticeMask := on }

/-- A nudge acts in the superframe after the write; in DISABLED and STARTING it has no effect. -/
def Dev.nudge (d : Dev) : Dev := if d.working then d.onXp fun x => { x with nudged := true } else d

end Sys2Proof.Machine
end

