-- ==== Sys2Proof/Machine/Intake.lean ====
section
/-! DEFINITION. Intent taken (chapter 6, 6.2 and 6.3): scan passes, the three steps of a record read, validation, hand-out. -/
namespace Sys2Proof.Machine

/-! ### Scan passes (R106) -/

def ScanPass.start (r : IntentRec) : ScanPass :=
  { record := r, step := .close, closeGen := 0, globalData := 0, nodeData := 0 }

/-- A node record is not read while a push to the position is in flight or its entry is CONFIGURING. -/
def Dev.readable (d : Dev) (k : Pos) : Bool := (d.ir.pos.get k).push.isNone && (d.entry k).state != .configuring

/-- The positions whose records follow a record in a pass. -/
def IntentRec.rest : IntentRec → List Pos
  | .global => Pos.all
  | .node k => Pos.all.filter fun j => k.toNat < j.toNat

def Dev.setPass (p : Option ScanPass) (d : Dev) : Dev := d.onIr fun i => { i with pass := p }

/-- The pass goes on after a record; at its end an owed pass begins. Whether a node record is read (R106) is looked at here,
when the pass comes to it, and not again when its first read is granted: the model's choice (log 115). -/
def Dev.nextRecordOf (r : IntentRec) (d : Dev) : Dev :=
  match r.rest.find? d.readable with
  | some k => d.setPass (some (ScanPass.start (.node k)))
  | none =>
    d.onIr fun i => { i with owed := false, pass := if i.owed then some (ScanPass.start .global) else none }

/-- A scan falls due: a pass begins, or one further pass is owed. -/
def Dev.scanIntent (d : Dev) : Dev :=
  d.onIr fun i => if i.pass.isSome then { i with owed := true } else { i with pass := some (ScanPass.start .global) }

/-! ### The global record (R108, R109) -/

/-- The Session Controller's part: the hold-over limit and the release serial (R96, R97). -/
def Dev.takeGlobalSc (g : GlobalIntent) (first : Bool) (d : Dev) : Dev :=
  let moved := !first && d.sc.releaseSerial != g.releaseSerial
  let d := d.onSc fun s => { s with holdLimit := g.holdLimit, releaseSerial := g.releaseSerial }
  d.when moved Dev.releaseRequest

/-- The Chain Manager's part: the chain retry serial, then the locate serial (R65, R76). -/
def Dev.takeGlobalCm (g : GlobalIntent) (first : Bool) (d : Dev) : Dev :=
  let retry := !first && d.cm.chainSerial != g.chainSerial
  let locate := !first && d.cm.locateSerial != g.locateSerial
  let d := d.onCm fun c => { c with chainSerial := g.chainSerial, locateSerial := g.locateSerial }
  (d.when retry Dev.chainRetry).when locate Dev.locateRequest

/-- The Power Contract Unit's part: the policy and the head status block (R158, R164). -/
def Dev.takeGlobalPcu (g : GlobalIntent) (d : Dev) : Dev :=
  let policy : Policy := { minVolt := g.minVolt, maxVolt := g.maxVolt, minPower := g.minPower, preference := g.preference }
  let changed := d.pcu.policy != policy
  let d := d.onPcu fun p => { p with policy := policy, hostBlock := g.block }
  d.when changed fun d => (d.onPcu fun p => { p with refused := 0 }).supplyCause

/-- The Side Line Unit's part: the four functions (R168). -/
def Dev.takeGlobalSlu (g : GlobalIntent) (d : Dev) : Dev :=
  let changed := Line.all.any fun n => (d.slu.lines.get n).fn != g.functions.get n
  d.when changed fun d =>
    (Line.all.foldl (fun d n => d.onLine n fun l => { l with fn := g.functions.get n }) d).placeLines

/-- The two blocks that compare serials take their fields in either order (R109, log 10). -/
def Dev.takeGlobalSerials (g : GlobalIntent) (first : Bool) (d : Dev) : Dev :=
  let scFirst := Config.scTakesFirst d.free
  let d : Dev := { d with free := d.free + 1 }
  if scFirst then (d.takeGlobalSc g first).takeGlobalCm g first else (d.takeGlobalCm g first).takeGlobalSc g first

/-- The global applied section's values after a take. -/
def Dev.globalApplied (gen : W32) (refused : Bool) (field : Byte) (d : Dev) : Dev :=
  (d.onIr fun i => { i with globalGen := gen, globalRefused := refused, globalField := field, globalStamp := d.le.stamp }).onPub
    fun p => { p with globalApplied := p.globalApplied.want }

/-- A global record is accepted. The blocks take their fields in one order, but for the Session Controller and the Chain
Manager: Link Engine, Exchange Port, Power Contract Unit, Side Line Unit, then those two (logs 10 and 63). -/
def Dev.acceptGlobal (gen : W32) (g : GlobalIntent) (d : Dev) : Dev :=
  let first := !d.ir.globalTaken
  let d := (d.globalApplied gen false 0).onIr fun i => { i with globalTaken := true }
  let d := (d.setThreshold g.threshold).onXp fun x => { x with enables := g.enables }
  ((d.takeGlobalPcu g).takeGlobalSlu g).takeGlobalSerials g first

/-- A taken global record is validated (R108). -/
def Dev.takeGlobal (gen : W32) (data : BitVec 320) (d : Dev) : Dev :=
  match checkGlobal data with
  | .refused f => d.globalApplied gen true f
  | .accepted g => d.acceptGlobal gen g

/-! ### A node record (R108, R111, R115, R119) -/

/-- The attention of an accepted record (R119). At a kind that takes none, one that is pending from before stays as it is
(log 64). -/
def IrPos.takeAttention (takes : Bool) (n : NodeIntent) (p : IrPos) : IrPos :=
  match p.keptAttention with
  | none => { p with keptAttention := some n.attentionSerial }
  | some s =>
    if s = n.attentionSerial then p
    else
      { p with
        keptAttention := some n.attentionSerial, stale := false
        attention := if takes then some { pattern := n.pattern, timer := 0 } else p.attention }

/-- The new levels are handed to the Power Contract Unit (R111). -/
def Dev.requestLevels (k : Pos) (n : NodeIntent) (d : Dev) : Dev :=
  d.onPcu fun p => { p with
    reqDisplay := p.reqDisplay.set k n.displayBacklight, reqKey := p.reqKey.set k n.keyBacklight }

/-- The record is taken and the node does not hold it. -/
def Dev.pendRecord (k : Pos) (gen : W32) (d : Dev) : Dev :=
  (d.onIrPos k fun p => { p with appliedGen := gen, result := .pending, refused := 0 }).wantApplied k

/-- A node record is accepted. -/
def Dev.acceptNode (k : Pos) (gen : W32) (n : NodeIntent) (d : Dev) : Dev :=
  let d := d.onIrPos k fun p =>
    { p.takeAttention (d.entry k).kind.takesAttention n with taken := n, takenGen := gen }
  let d := d.requestLevels k n
  if (d.entry k).state = .active ∧ d.sc.dock ≠ .releasing then d.startPush k gen false else d.pendRecord k gen

/-- A node record is refused. -/
def Dev.refuseNode (k : Pos) (gen : W32) (field : Byte) (d : Dev) : Dev :=
  (d.onIrPos k fun p => { p with appliedGen := gen, result := .refused, refused := field }).wantApplied k

def Dev.takeNode (k : Pos) (gen : W32) (data : BitVec 112) (d : Dev) : Dev :=
  match checkNode data with
  | .refused f => d.refuseNode k gen f
  | .accepted n => d.acceptNode k gen n

/-! ### The three steps of a read (R107) -/

/-- The applied generation a record's close generation is compared with. -/
def Dev.appliedGenOf (d : Dev) : IntentRec → W32
  | .global => d.ir.globalGen
  | .node k => (d.ir.pos.get k).appliedGen

/-- The state of the position allows the take; the global record's always does. -/
def Dev.mayTake (d : Dev) : IntentRec → Bool
  | .global => true
  | .node k => d.readable k

def Dev.takeRecordOf (p : ScanPass) (d : Dev) : Dev :=
  match p.record with
  | .global => d.takeGlobal p.closeGen p.globalData
  | .node k => d.takeNode k p.closeGen p.nodeData

/-- The close generation has been read. -/
def Dev.closeRead (p : ScanPass) (g : W32) (d : Dev) : Dev :=
  if g = d.appliedGenOf p.record ∨ g = 0 then d.nextRecordOf p.record
  else d.setPass (some { p with step := .fields, closeGen := g })

/-- The open generation has been read: discarded, torn, or taken. -/
def Dev.openRead (p : ScanPass) (g : W32) (d : Dev) : Dev :=
  if d.mayTake p.record = false then d.nextRecordOf p.record
  else if g = p.closeGen then (d.takeRecordOf p).nextRecordOf p.record
  else ((d.onIr fun i => { i with torn := i.torn + 1 }).onPub fun b => { b with torn := true }).nextRecordOf p.record

/-- A read of the pass has returned its data. -/
def Dev.passRead (p : ScanPass) (x : IntentData) (d : Dev) : Dev :=
  match p.step, x with
  | .close, .generation g => d.closeRead p g
  | .fields, .globalFields f => d.setPass (some { p with step := .openGen, globalData := f })
  | .fields, .nodeFields f => d.setPass (some { p with step := .openGen, nodeData := f })
  | .openGen, .generation g => d.openRead p g
  | _, _ => d

/-- The data is what a step of a record's read returns. -/
def dataFits : IntentRec → ReadStep → IntentData → Bool
  | _, .close, .generation _ => true
  | _, .openGen, .generation _ => true
  | .global, .fields, .globalFields _ => true
  | .node _, .fields, .nodeFields _ => true
  | _, _, _ => false

/-- INTENT_READ_COMPLETE: the read in the engine returns. -/
def Dev.intentRead (x : IntentData) (d : Dev) : Dev :=
  match d.xp.engine, d.ir.pass with
  | some (.intent r st), some p =>
    if p.record = r ∧ p.step = st ∧ dataFits r st x = true then (d.setEngine none).passRead p x else d
  | _, _ => d

end Sys2Proof.Machine
end

