-- ==== Sys2Proof/Machine/Completions.lean ====
section
/-! DEFINITION. Window accesses that complete (chapters 1, 4, 6, 7, 8): the cursor, pixels, outcomes, the journal, sections, the fault total. -/
namespace Sys2Proof.Machine

/-! ### The update cursor (R139 to R142) -/

/-- The cursor or its phase changes; the two words of the cursor field are to be written. A change that comes while such a
write still waits gets no write of its own (log 78). -/
def Dev.setCursor (c : Option (BitVec 6)) (phase : CursorPhase) (d : Dev) : Dev :=
  (d.onDtu fun t => { t with cursor := c, phase := phase }).onPub fun p => { p with cursor := true, hostTag := true }

/-- The cursor moves to the record an index names; NONE leaves it where it is. -/
def Dev.moveCursor (i : Byte) (d : Dev) : Dev :=
  match listIndex i with
  | some c => d.setCursor (some c) .at
  | none => d

def Dev.serialOf (d : Dev) (c : BitVec 6) : W16 := d.dtu.serials.getD c.toNat 0

/-- The outcome of a posting that was never transferred: tiles sent and commits 0 (R140, R141; SPLIT clear, log 42). -/
def idleOutcome (o : UpdateOutcome) (r : UpdateReason) (stamp : W32) (u : UpdateRecord) : OutcomeWrite :=
  { outcome := o, reason := r, split := false, tilesSent := 0, commits := 0, stamp := stamp, serial := u.post
    hostTag := u.hostTag, fieldsWritten := false }

def Dev.decide (o : OutcomeWrite) (d : Dev) : Dev := d.onDtu fun t => { t with outcome := some o }

/-- The entry of the target is being brought in (R140, step 4). -/
def Entry.beingBrought (e : Entry) : Bool :=
  let early (l : Live) : Bool := l == .probed || l == .reading || l == .configuring
  e.state == .probed || e.state == .reading || e.state == .configuring ||
    (e.isAway && e.resume.any early) || e.isReturned

/-- The working context a record gives, before its tiles are counted. -/
def UpdateRecord.posting (u : UpdateRecord) (k : Pos) : Posting :=
  { post := u.post, target := k, x := u.x, y := u.y, w := u.w, h := u.h, source := u.source, stride := u.stride
    hostTag := u.hostTag, state := .waiting, batch := 0, size := 0, tag := 0, sendPoint := 0, received := 0, ready := []
    timer := 0, refusals := 0, tilesSent := 0, commits := 0, split := false, began := 0, committed := false
    revalidate := false, checkReport := false }

/-- A posting is taken and validated (R141). A target that is ACTIVE with a release pending takes it like any other (log 79). -/
def Dev.takePosting (u : UpdateRecord) (d : Dev) : Dev :=
  let d := d.setCursor d.dtu.cursor .taken
  match Pos.ofNat? u.target.toNat with
  | none => d.decide (idleOutcome .failed .noDisplay d.le.stamp u)
  | some k =>
    match d.postingFault k u.x u.y u.w u.h u.stride with
    | some r => d.decide (idleOutcome .failed r d.le.stamp u)
    | none =>
      let p := u.posting k
      let d := d.onDtu fun t => { t with posting := some { p with split := p.isSplit (d.staging k) } }
      if (d.entry k).state = .active then d.beginBatch 0 else d

/-- The dock is RELEASING or RELEASED, or the part STOPPING (R140, step 3). -/
def Dev.takesNoRecord (d : Dev) : Bool :=
  d.sc.dock == .releasing || d.sc.dock == .released || d.xp.part == .stopping

/-- A record read in phase AT is decided (R140). -/
def Dev.decideRecord (c : BitVec 6) (u : UpdateRecord) (d : Dev) : Dev :=
  if u.post = d.serialOf c then d
  else if u.withdraw = u.post then d.decide (idleOutcome .withdrawn .none d.le.stamp u)
  else if d.takesNoRecord then d
  else if (Pos.ofNat? u.target.toNat).any fun k => (d.entry k).beingBrought then d
  else d.takePosting u

/-- CURSOR_READ_COMPLETE. -/
def Dev.cursorRead (x : CursorData) (d : Dev) : Dev :=
  match d.xp.engine, x with
  | some .firstIndex, .first i => (d.setEngine none).moveCursor i
  | some (.record c), .record r => (d.setEngine none).decideRecord c (updateRecord r)
  | some (.nextIndex _), .next i => (d.setEngine none).moveCursor i
  | _, _ => d

/-- PIXEL_READ_COMPLETE (R144): a tile read for an emptied ready list is discarded. -/
def Dev.pixelRead (tile : Option (BitVec 4096)) (d : Dev) : Dev :=
  match d.xp.engine, tile with
  | some (.pixels i n _), some px =>
    let d := d.setEngine none
    if n = d.dtu.readyNo then d.onPosting fun p => { p with ready := p.ready ++ [{ index := i, pixels := px }] } else d
  | some (.pixels _ n _), none => (d.setEngine none).pixelsFailed n
  | _, _ => d

/-- OUTCOME_WRITE_COMPLETE (R142): the serial is written in its own word, the phase becomes AFTER and the next index is
read at once. -/
def Dev.outcomeWritten (d : Dev) : Dev :=
  match d.xp.engine, d.dtu.outcome with
  | some (.outcomeSerial c), some o =>
    let d := (d.setEngine none).writeWindow (updateOffset c + 0x3C) (le16 o.serial ++ zeros 2)
    let d := d.onDtu fun t => { t with outcome := none, readDue := true, serials := t.serials.set c.toNat o.serial }
    (d.setCursor (some c) .after).bump .updates
  | _, _ => d

/-! ### The journal (R130, R131) -/

/-- How far the journal is ahead of a taken count. -/
def Ic.ahead (i : Ic) (t : W32) : Nat := (i.writeCount - t).toNat

/-- The last valid taken count leaves no room. -/
def Ic.full (i : Ic) : Bool := i.taken.any fun t => 512 ≤ i.ahead t

def Dev.setInvalid (b : Bool) (d : Dev) : Dev :=
  if d.ic.invalid = b then d else (d.onIc fun i => { i with invalid := b }).onPub fun p => { p with journalCount := true }

/-- TAKEN_COUNT_READ. -/
def Dev.takenRead (t : W32) (d : Dev) : Dev :=
  if d.xp.engine = some .takenCount then
    let d := (d.setEngine none).onIc fun i => { i with takenFirst := false }
    if d.ic.ahead t ≤ 512 then (d.setInvalid false).onIc fun i => { i with taken := some t } else d.setInvalid true
  else d

/-- The window offset of the journal slot of a write count. -/
def journalOffset (w : W32) : Nat := 0x2000 + 16 * (w.toNat % 512)

/-- JOURNAL_ENTRY_WRITE. -/
def Dev.journalWritten (d : Dev) : Dev :=
  if d.xp.engine = some .journal then
    let d := d.setEngine none
    match d.ic.staging with
    | [] => d
    | i :: rest =>
      (d.writeWindow (journalOffset d.ic.writeCount) i.bytes).onIc fun c =>
        { c with staging := rest, writeCount := c.writeCount + 1 }
  else d

/-- WRITE_COUNT_WRITE. -/
def Dev.countWritten (d : Dev) : Dev :=
  match d.xp.engine with
  | some (.writeCount v) =>
    let old := d.ic.written
    let d := ((d.setEngine none).writeWindow 0x110 (le32 v)).onIc fun i => { i with written := v }
    if v = old then d else d.bump .input
  | _ => d

/-! ### Sections and the fault total (R19, R20, R81, R109, R120) -/

/-- ENTRY_SECTION_WRITE: the close generation; NODES where state, kind or identity differs from the previous write. The
identity compared is the whole header, revision included (log 47). -/
def Dev.entryClosed (d : Dev) : Dev :=
  match d.xp.engine with
  | some (.publish (.entry k) .close) =>
    let was := d.pub.entryWritten.get k
    let now := d.pub.entryCarried.get k
    let d := ((d.setEngine none).issueClose (.entry k)).onPub fun p => { p with entryWritten := p.entryWritten.set k now }
    if now.state = was.state ∧ now.identity = was.identity then d else d.bump .nodes
  | _ => d

/-- APPLIED_SECTION_WRITE. -/
def Dev.appliedClosed (d : Dev) : Dev :=
  match d.xp.engine with
  | some (.publish (.applied k) .close) => ((d.setEngine none).issueClose (.applied k)).bump .applied
  | some (.publish .globalApplied .close) => ((d.setEngine none).issueClose .globalApplied).bump .applied
  | _ => d

/-- FAULT_TOTAL_WRITE: FAULTS advances by the difference of the totals. -/
def Dev.totalWritten (d : Dev) : Dev :=
  match d.xp.engine with
  | some (.faultTotal v) =>
    let old := d.cm.log.written
    let d := ((d.setEngine none).writeWindow 0x340 (le32 v)).onCm fun c => { c with log := { c.log with written := v } }
    d.bumpBy .faults (v - old)
  | _ => d

/-! ### A scan (R19, R178) -/

/-- A counter of the entry section has changed since the last write, which is the last whose close has been made (the model's
choice, log 102). -/
def Dev.countersMoved (d : Dev) (k : Pos) : Bool :=
  let w := d.pub.entryWritten.get k
  let n := d.entryNow k
  !(w.miss == n.miss && w.winErr == n.winErr && w.cumErr == n.cumErr && w.degraded == n.degraded)

/-- The Chain Manager requests the writes of the entries whose counters have changed. -/
def Dev.scanCounters (d : Dev) : Dev :=
  Pos.all.foldl (fun d k => d.when (d.countersMoved k) fun d => d.onSec (.entry k) Sec.want) d

/-- SCAN: the Intent Reconciler, the Input Collector and the Display Transfer Unit are told, in the superframe in which
the scan falls due. Where the taken count is read in this superframe anyway, the scan adds no read (R178). -/
def Dev.scan (d : Dev) : Dev :=
  if d.working = true ∧ d.xp.scanDue = true ∧ d.xp.windowStall = false then
    let d := d.onXp fun x => { x with scanDue := false }
    let d := d.scanIntent.onIc Ic.askTaken
    (d.onDtu fun t => { t with readDue := true }).scanCounters
  else d

end Sys2Proof.Machine
end

