-- ==== Sys2Proof/Machine/Settle.lean ====
section
/-! DEFINITION. What follows a step in the same superframe: the grants (R163), a refused push unblocked (R116), the resume timer (R14), the sections that have changed (R19, R67, R166, R172), the requests offered (R177). -/
namespace Sys2Proof.Machine

/-- Allocation runs when the unit is not braced and something it depends on has changed (R163). -/
def Dev.allocateAfter (old new : Dev) : Dev :=
  if new.pcu.braced = false ∧ Dev.allocationDue old new = true then new.allocate else new

/-- A position left out after NODE_REFUSED is compared again once a derived value has changed (R116). -/
def Dev.unblock (k : Pos) (d : Dev) : Dev :=
  match (d.ir.pos.get k).blocked with
  | none => d
  | some b => if d.derived k = b then d else d.onIrPos k fun p => { p with blocked := none }

/-- The resume timer starts at 0 when an entry becomes the lowest LOST one (R14). -/
def Dev.followLost (d : Dev) : Dev :=
  if d.cm.resumeFor = d.lowestLost then d else d.onCm fun c => { c with resumeFor := d.lowestLost, resumeTimer := 0 }

/-- An entry shows something else than before; release pending is not shown (R19). -/
def Dev.entryMoved (old new : Dev) (k : Pos) : Bool :=
  { old.entry k with releasing := (new.entry k).releasing } != new.entry k

/-- The fields of the power section whose change asks for a write (R166). -/
def Dev.powerMoved (old new : Dev) : Bool :=
  { old.pcu with
    transTimer := new.pcu.transTimer, owed := new.pcu.owed, baseRequest := new.pcu.baseRequest, resumed := new.pcu.resumed
    policy := new.pcu.policy, clearCount := new.pcu.clearCount, reqDisplay := new.pcu.reqDisplay, reqKey := new.pcu.reqKey
    hostBlock := new.pcu.hostBlock, delivered := new.pcu.delivered } != new.pcu

def Dev.wantSec (id : SecId) (d : Dev) : Dev := d.onSec id Sec.want

/-- The sections whose fields have changed are to be written. -/
def Dev.wantSections (old new : Dev) : Dev :=
  let d := Pos.all.foldl (fun d k => d.when (Dev.entryMoved old new k) (Dev.wantSec (.entry k))) new
  let d := d.when (old.chainFields != new.chainFields) (Dev.wantSec .chain)
  let d := d.when (Dev.powerMoved old new) (Dev.wantSec .power)
  d.when (old.linesFields != new.linesFields) (Dev.wantSec .lines)

/-- The cursor field shows the taken posting (R139). -/
def Dev.wantCursor (old new : Dev) : Dev :=
  let d := new.onPub fun p => { p with cursor := p.cursor || old.cursorWord != new.cursorWord }
  d.onPub fun p => { p with hostTag := p.hostTag || old.hostTagWord != new.hostTagWord }

/-- What follows a step that took the part from `old` to `new`: allocation comes behind the step's own pushes, so a take's
first SET carries the grants of before it (R111, log 57); at the end the requesters offer their work (R177). -/
def Dev.settle (old new : Dev) : Dev :=
  let d := Dev.allocateAfter old new
  let d := (Pos.all.foldl (fun d k => d.unblock k) d).followLost
  (Dev.wantCursor old (Dev.wantSections old d)).offerAll

/-! ### CONTROL and the registers (R173, R174) -/

/-- ENABLE written 0, with what follows a release sequence that it starts. -/
def Dev.disable (d : Dev) : Dev := Dev.settle d d.enableOff

/-- A write of CONTROL (log 2): RESET alone, or ENABLE, NOTICE_ON and NOTICE_MASK. -/
def Dev.writeControl (v : W32) (d : Dev) : Dev :=
  if v.getLsbD 1 then d.functionReset
  else
    let d := (d.setNoticeOn (v.getLsbD 2)).setNoticeMask (v.getLsbD 3)
    if v.getLsbD 0 then d.enableOn else d.disable

/-- A write of BAR0; a write of any other offset is ignored. -/
def Dev.writeReg (offset : BitVec 12) (v : W32) (d : Dev) : Dev :=
  if offset = 0x004 then d.writeControl v
  else if offset = 0x00C then d.nudge
  else if offset = 0x010 then d.onXp fun x => { x with windowLow := v }
  else if offset = 0x014 then d.onXp fun x => { x with windowHigh := v }
  else d

end Sys2Proof.Machine
end

