-- ==== Sys2Proof/Machine/Boundary.lean ====
section
/-! DEFINITION. The superframe boundary (R22): the end of the old superframe, notices, schedules, scans, timers, the traffic of the new one. -/
namespace Sys2Proof.Machine

/-! ### The end of the superframe under way -/

/-- A PROBED entry in the current schedule begins its walk (R6). -/
def Dev.walkProbed (k : Pos) (d : Dev) : Dev :=
  if (d.entry k).state = .probed ∧ (d.entry k).releasing = false ∧ d.le.current.get k = true then d.startWalk k else d

/-- What is looked at once in each superframe, when its answer windows are past (R6, R165, R169). -/
def Dev.endSuperframe (d : Dev) : Dev :=
  let d := Pos.all.foldl (fun d k => d.walkProbed k) d.closeWindows
  (Pos.all.foldl (fun d k => d.sendBlock k) d).sendLines

/-! ### Notices (R180) -/

/-- The counter words that a message sent at this boundary waits for, with those of one that still waits (log 27). -/
def Dev.noticeWords (d : Dev) : Per9 Bool :=
  Per9.ofFn fun c => d.pub.counters.get c || (d.xp.msiWait.any fun w => w.get c)

/-- The request and NOTICE_PENDING are taken together at the boundary. -/
def Dev.noticeBoundary (d : Dev) : Dev :=
  let x := d.xp
  if (x.noticeRequest || x.noticePending) && x.noticeOn && d.pcie.msiEnable && !x.noticeMask then
    (d.onXp fun x => { x with noticeRequest := false, noticePending := false, msiWait := some d.noticeWords }).sendNotice
  else if x.noticeRequest && x.noticeOn then d.onXp fun x => { x with noticePending := true, noticeRequest := false }
  else d.onXp fun x => { x with noticeRequest := false }

/-! ### Stamp, schedule, scan (R22, R44, R178) -/

def Dev.advanceStamp (d : Dev) : Dev := d.onLe fun l => { l with stamp := l.stamp + 1 }

/-- A next schedule that differs becomes current and the generation advances; an empty schedule holds the interruption
count at 0 (R44, R46). -/
def Dev.swapSchedule (d : Dev) : Dev :=
  let d := if d.le.next = d.le.current then d
    else d.onLe fun l => { l with current := l.next, gen := l.gen + 1 }
  if anyOf d.le.current then d else d.onLe fun l => { l with interruption := 0 }

/-- A scan falls due at a stamp that is a multiple of 8, after a nudge and after a stall has cleared; a nudge during a
stall makes the stall retry fall due (R178, R179). -/
def Dev.scanBoundary (d : Dev) : Dev :=
  let due := d.le.stamp.toNat % 8 == 0 || d.xp.nudged || d.xp.scanNext
  d.onXp fun x => { x with
    scanDue := !x.windowStall && (x.scanDue || due)
    retryDue := x.retryDue || (x.windowStall && x.nudged)
    retryTimer := if x.windowStall then x.retryTimer + 1 else x.retryTimer
    nudged := false, scanNext := false }

/-- Error windows are spans of 1024 superframes from stamp 0 (R47). -/
def Dev.errorBoundary (d : Dev) : Dev :=
  d.onLe fun l => { l with windowEnded := l.windowEnded || l.stamp.toNat % 1024 == 0 }

/-! ### Timers -/

/-- One more while a condition holds, at most a limit. -/
def tick (b : Bool) (limit n : Nat) : Nat := if b then min limit (n + 1) else n

/-- The Session Controller's timers (R87, R91, R92, R98, R101). The probing points are 10 superframes apart. -/
def Dev.tickSc (d : Dev) : Dev :=
  let bringup := d.sc.dock == .bringup
  let holding := d.sc.dock == .holding
  d.onSc fun s => { s with
    sampled := false
    bringupTimer := tick bringup 500 s.bringupTimer
    probeTimer := if bringup then (if 10 ≤ s.probeTimer then 1 else s.probeTimer + 1) else s.probeTimer
    holdTimer := if holding then s.holdTimer + 1 else s.holdTimer
    tickTimer := tick holding 10 s.tickTimer
    releasedTimer := tick (s.dock == .released) 10000 s.releasedTimer
    sequence := s.sequence.map fun q => { q with timer := tick (q.step == .drain) 100 q.timer } }

/-- Discovery may go on: the dock is DOCKED and no entry is LOST (R54, R62). -/
def Dev.discoveryRuns (d : Dev) : Bool := d.sc.dock == .docked && d.sc.undock.isNone && !d.anyLost

/-- FAULTED behind a release still pending: the frontier timer starts when that release completes (R70). -/
def Cm.timerWaits (c : Cm) : Bool := c.release.any fun r => r.after == .faultTimer

/-- The frontier timer runs in COMPLETE with a re-check, FAULTED and DEFERRED (R62 to R64, R70). -/
def Cm.frontierRuns (c : Cm) : Bool :=
  match c.discovery with
  | .complete => c.recheck
  | .faulted => !c.timerWaits
  | .deferred => true
  | .stopped => false | .waiting => false | .powering => false | .observing => false | .probing => false
  | .givenUp => false | .shut => false | .locating => false

/-- The locate timer runs: the span of SETTLING begins with the DONE of the OFF and the completion of the release (R77). -/
def Dev.locateRuns (d : Dev) : Bool :=
  d.discoveryRuns && d.cm.discovery == .locating &&
    (d.cm.locate.step != .settling || (d.cm.locate.offDone && d.cm.release.isNone))

/-- The Chain Manager's timers (R14, R52, R53, R62, R77, R78). -/
def Dev.tickCm (d : Dev) : Dev :=
  let runs := d.discoveryRuns
  let locate := d.locateRuns
  let lost := d.anyLost
  d.onCm fun c => { c with
    stepTimer := tick (runs && c.discovery.isStep) 50 c.stepTimer
    frontierTimer := tick (runs && c.frontierRuns) 2000 c.frontierTimer
    resumeTimer := tick lost 100 c.resumeTimer
    locate := { c.locate with timer := tick locate 100 c.locate.timer } }

/-- The stale timers of pending attentions (R119). -/
def Dev.tickIr (d : Dev) : Dev :=
  d.onIr fun i => { i with pos := Per6.ofFn fun k =>
    let p := i.pos.get k
    { p with attention := p.attention.map fun a => { a with timer := tick true 1000 a.timer } } }

/-- The transition timer, which runs while entry 1 is ACTIVE, and the brace clear count (R157, R161). -/
def Dev.tickPcu (d : Dev) : Dev :=
  let moving := d.pcu.contract == .transition && (d.entry .p1).state == .active
  let clear := !d.braceCondition
  d.onPcu fun p => { p with
    transTimer := tick moving 500 p.transTimer
    clearCount := if p.braced then (if clear then min 200 (p.clearCount + 1) else 0) else p.clearCount }

/-- The final drain's timer, and the reads of the taken count that need no scan (R131, R134). -/
def Dev.tickIc (d : Dev) : Dev :=
  let read := !d.xp.windowStall && (d.ic.full || d.ic.invalid || d.ic.drain.isSome)
  d.onIc fun i => { i with drain := i.drain.map fun t => tick true 100 t, takenDue := i.takenDue || read, asked := read }

/-- The posting waits on its node (R147). -/
def Posting.waitsOnNode (p : Posting) : Bool :=
  match p.state with
  | .gate => true
  | .sending => p.received < p.sendPoint
  | .committing => true
  | .waiting => false

/-- The progress timer of a posting, after the superframe's tiles are sent (R147). -/
def Dev.tickDtu (d : Dev) : Dev :=
  match d.dtu.posting with
  | none => d
  | some p =>
    if p.waitsOnNode && (d.entry p.target).state == .active then d.onPosting fun p => { p with timer := tick true 64 p.timer }
    else d

def Dev.tickAll (d : Dev) : Dev := d.tickSc.tickCm.tickIr.tickPcu.tickIc

/-- The RESUME that the resume walk queues in this superframe without waiting for its timer (R14). Where one to that position
is outstanding still, none is queued and the walk waits for its timer (log 48). -/
def Dev.resumeAtOnce (d : Dev) : Dev :=
  if d.cm.resumeNow then
    match d.walkTarget with
    | some k => d.queueResume k
    | none => d.onCm fun c => { c with resumeNow := false }
  else d

/-! ### The boundary -/

/-- The traffic of the new superframe. -/
def Dev.traffic (d : Dev) : Dev := if d.linkInUse then d.sendTraffic else d.sendNothing

/-- The new superframe before its traffic: the old one ended, the notice decided, stamp, schedule, scan and timers moved. -/
def Dev.newSuperframe (d : Dev) : Dev :=
  d.endSuperframe.noticeBoundary.advanceStamp.swapSchedule.scanBoundary.errorBoundary.tickAll

/-- The boundary of a part in RUNNING or STOPPING. -/
def Dev.boundary (d : Dev) : Dev := d.newSuperframe.traffic.tickDtu.resumeAtOnce

/-- SUPERFRAME: in DISABLED a part whose ENABLE is 1 enters STARTING (R174, log 40). -/
def Dev.superframe (d : Dev) : Dev :=
  match d.xp.part with
  | .disabled => if d.xp.enable then d.enterStarting else d
  | .starting => d
  | .running => Dev.settle d d.boundary
  | .stopping => Dev.settle d d.boundary

end Sys2Proof.Machine
end

