-- ==== Sys2Proof/Machine/Run.lean ====
section
/-! DEFINITION. How a command runs: the part changes, the queue stays; and the changes of the small commands. -/
namespace Sys2Proof.Machine

/-- A command changes the part and nothing else. -/
def State.run (f : Dev → Dev) (s : State) : Host.Outcome State Fault Refusal := .next { s with dev := f s.dev }

/-- A command whose change is followed by what it brings about in the same superframe. -/
def State.runSettled (f : Dev → Dev) (s : State) : Host.Outcome State Fault Refusal :=
  s.run fun d => Dev.settle d (f d)

/-- A command that gives the requesters work: each with no request outstanding offers its next (R177). -/
def State.runOffered (f : Dev → Dev) (s : State) : Host.Outcome State Fault Refusal := s.run fun d => (f d).offerAll

/-! ### Link -/

/-- One message, push step, SUPPLY or STATUS_BLOCK is offered again (R40, R113, R155, R165). -/
def Dev.reoffer (o : QueueOffer) (d : Dev) : Dev :=
  match o.what with
  | .message m =>
    match d.submit o.pos m with
    | (d', .full) => d'.keepOffer o.pos (.message m)
    | (d', .queued) => d'
    | (d', .gone) => d'
  | .push => (d.pushStep o.pos).configuringCheck o.pos
  | .supply => d.queueSupply
  | .block => if d.takesBlock o.pos then d.queueBlock o.pos else d

/-- Take the oldest offer of an earlier superframe out of a list. -/
def takeOffer (stamp : W32) : List QueueOffer → Option (QueueOffer × List QueueOffer)
  | [] => none
  | o :: os => if o.stamp ≠ stamp then some (o, os) else (takeOffer stamp os).map fun x => (x.1, o :: x.2)

/-- QUEUE_REOFFER. -/
def Dev.queueReoffer (d : Dev) : Dev :=
  match takeOffer d.le.stamp d.le.offers with
  | none => d
  | some (o, rest) => ({ d with le := { d.le with offers := rest } } : Dev).reoffer o

/-- ANSWER: what was received in a window of this superframe. -/
def Dev.answerIn (w : Window) (frame : Option (List Byte)) (d : Dev) : Dev :=
  match w with
  | .answer k => d.answerWindow k frame
  | .probe => d.probeAnswer frame

/-- LOSS_REPORT (R13, R45). -/
def Dev.lossReport (k : Pos) (d : Dev) : Dev :=
  if d.le.lossDue.get k then (d.onLe fun l => { l with lossDue := l.lossDue.set k false }).takeLoss k else d

/-- INTERRUPTION_REPORT (R46, R88, R90, R91). -/
def Dev.interruptionReport (d : Dev) : Dev :=
  if d.le.interruptionDue then
    let d := d.onLe fun l => { l with interruptionDue := false }
    if d.sc.dock = .docked ∧ d.sc.undock = none then d.beginHold else d
  else d

/-- The end of an error window: the flag clears of a position whose count stayed below the threshold through the window,
and every count returns to 0 (R47). -/
def Le.endWindow (l : Le) : Le :=
  { l with
    windowEnded := false, winErr := Per6.const 0, reached := Per6.const false
    degraded := Per6.ofFn fun k => l.degraded.get k && l.reached.get k }

/-- ERROR_WINDOW_END. -/
def Dev.errorWindowEnd (d : Dev) : Dev := if d.le.windowEnded then d.onLe Le.endWindow else d

/-! ### Chain -/

/-- FRONTIER_TIMER: a step that releases a returned position is followed by what that brings about (R12). -/
def Dev.frontierTimer (d : Dev) : Dev :=
  let e := d.frontierExpiry
  if e.cm.table = d.cm.table then e else Dev.settle d e

/-! ### Results -/

def Payload.isRead : Payload → Bool
  | .read _ _ => true
  | _ => false
def Payload.isResume : Payload → Bool
  | .resume _ => true
  | _ => false
def Payload.isSegment : Payload → Bool
  | .segment _ _ => true
  | _ => false
def Payload.isCommit : Payload → Bool
  | .commit _ => true
  | _ => false

/-- The result of a PROBE: an answer with an identity header, or none (R6, R53; log 15). -/
def Dev.probeResult (r : CtrlResult) (code : ResultCode) (d : Dev) : Dev :=
  match code, parseIdentity r.data with
  | .done, some id => if r.pos = .p1 then d.cradleProbed id else d.probeTaken r.pos id
  | .gone, _ => d
  | _, _ => if r.pos = .p1 then d else d.probeFailed r.pos

def Dev.readDone (r : CtrlResult) (code : ResultCode) (d : Dev) : Dev :=
  match r.payload with
  | .read o n => d.readResult r.pos o n code r.data
  | _ => d

/-- The result of a SET goes to the block that submitted it. -/
def Dev.setDone (r : CtrlResult) (code : ResultCode) (d : Dev) : Dev :=
  match r.payload, r.sub with
  | .set items n, .cm => d.sessionResult r.pos items n code
  | .set items _, .ir => d.irSetResult r.pos items code
  | .set items _, .slu =>
    let d := d.linesResult items code
    if code = .gone then d else d.sendLines
  | _, _ => d

def Dev.segmentDone (r : CtrlResult) (code : ResultCode) (d : Dev) : Dev :=
  match r.payload with
  | .segment _ use => d.segmentResult r.pos use code
  | _ => d

def Dev.supplyDone (r : CtrlResult) (code : ResultCode) (d : Dev) : Dev :=
  match r.payload with
  | .supply _ _ _ base => if base then d.baseResult code else d.contractResult code
  | _ => d

def Dev.commitDone (r : CtrlResult) (code : ResultCode) (d : Dev) : Dev :=
  match r.payload with
  | .commit tag => d.commitResult r.pos tag code
  | _ => d

def Dev.blockDone (r : CtrlResult) (code : ResultCode) (d : Dev) : Dev :=
  match r.payload with
  | .statusBlock b => d.blockResult r.pos b code
  | _ => d

/-- A RELEASE of a release, or of the release sequence (R16, R99). -/
def Dev.releaseDone (r : CtrlResult) (d : Dev) : Dev :=
  if r.sub = .sc then d.sequenceReleased r.pos else d.releaseReturned r.pos

/-! ### Session -/

/-- The sense level and its run count after a sample (R84). -/
def Sc.sample (active : Bool) (s : Sc) : Sc :=
  { s with
    sampled := true, sense := some active
    senseRun := if s.sense = some active then satInc s.senseRun else 1 }

/-- UNDOCKED and DETECTING follow the sample (R85). -/
def Dev.followSense (active : Bool) (d : Dev) : Dev :=
  if d.sc.dock = .undocked ∧ active = true then d.setDock .detecting
  else if d.sc.dock = .detecting ∧ active = false then d.setDock .undocked
  else d

/-- DOCK_SENSE: one sample in each superframe; the dock state word and the DOCK counter are offered at once. -/
def Dev.dockSense (active : Bool) (d : Dev) : Dev :=
  if d.working = true ∧ d.sc.sampled = false then
    ((d.onSc (Sc.sample active)).followSense active).offerAll
  else d

/-- SENSE_RUN_REACHED (R85, R88, R97, R101). -/
def Dev.senseRunReached (d : Dev) : Dev :=
  if d.working = false ∨ d.sc.senseRun.toNat < 50 then d
  else match d.sc.dock, d.sc.sense with
    | .detecting, some true => if d.xp.part = .stopping then d else d.freshDock
    | .bringup, some false => d.undock none .undocked []
    | .released, some false => d.setDock .undocked
    | _, _ => d

/-- BRINGUP_PROBE (R87). -/
def Dev.bringupProbe (d : Dev) : Dev :=
  if d.sc.dock = .bringup ∧ d.sc.undock = none ∧ 10 ≤ d.sc.probeTimer ∧ (d.entry .p1).isVacant = true
      ∧ d.probeOut .p1 .sc = false then d.queueProbe1
  else d

/-- NO_CRADLE (R87). -/
def Dev.noCradle (d : Dev) : Dev :=
  if d.sc.dock = .bringup ∧ d.sc.undock = none ∧ 500 ≤ d.sc.bringupTimer ∧ d.sc.probeAnswered = false
      ∧ d.sc.noCradle = false then
    (d.logFault .noCradle .position 1 false .none).onSc fun s => { s with noCradle := true }
  else d

/-- HOLD_TICK (R92). -/
def Dev.holdTickDue (d : Dev) : Dev :=
  if d.sc.dock = .holding ∧ d.sc.undock = none ∧ 10 ≤ d.sc.tickTimer then d.holdTick else d

/-- HOLD_OVER_EXPIRY (R96). -/
def Dev.holdOverExpiry (d : Dev) : Dev :=
  if d.sc.dock = .holding ∧ d.sc.undock = none ∧ d.sc.holdLimit.toNat ≤ d.sc.holdTimer then
    d.undock (some .expired) .bySense []
  else d

/-- RELEASED_TIMER (R101, R97). -/
def Dev.releasedTimerEnd (d : Dev) : Dev :=
  if d.sc.dock = .released ∧ 10000 ≤ d.sc.releasedTimer ∧ d.sc.sense = some true ∧ d.xp.part ≠ .stopping then d.freshDock
  else d

/-! ### Settings and lines -/

/-- REDERIVE (R116). -/
def Dev.rederive (k : Pos) (d : Dev) : Dev :=
  if d.rederiveDue k then d.startPush k (d.ir.pos.get k).appliedGen false else d

/-- ATTENTION_STALE (R119). -/
def Dev.attentionStale (k : Pos) (d : Dev) : Dev :=
  match (d.ir.pos.get k).attention with
  | none => d
  | some a =>
    if 1000 ≤ a.timer then (d.onIrPos k fun p => { p with attention := none, stale := true }).wantApplied k else d

/-- LINE_DEBOUNCE: 20 equal samples make the stable level; a RELEASE line that goes from INACTIVE to ACTIVE is a press
(R170, R97). -/
def Dev.lineDebounce (n : Line) (d : Dev) : Dev :=
  let l := d.slu.lines.get n
  if l.sampled = true ∧ 20 ≤ l.run ∧ l.target ≠ l.stable then
    let d := (d.setStable n l.target).lineEffects
    if l.fn = .release ∧ l.stable = .inactive ∧ l.target = .active then d.releasePress else d
  else d

/-! ### Power -/

/-- CONTRACT_TIMEOUT (R157). -/
def Dev.contractTimeout (d : Dev) : Dev :=
  if d.pcu.contract = .transition ∧ 500 ≤ d.pcu.transTimer then
    (d.logFault .contractTimeout .position 1 false .none).refuseOffer
  else d

/-- BRACE_END (R161). -/
def Dev.braceEnd (d : Dev) : Dev :=
  if d.pcu.braced = true ∧ d.braceCondition = false ∧ 200 ≤ d.pcu.clearCount then
    d.onPcu fun p => { p with braced := false, clearCount := 0 }
  else d

/-! ### Display -/

/-- GO_BACK (R145). -/
def Dev.goBack (d : Dev) : Dev :=
  match d.dtu.posting with
  | none => d
  | some p =>
    if p.state = .sending ∧ 0 < p.timer ∧ p.timer % 4 = 0 ∧ p.received < p.sendPoint then
      (d.onPosting fun p => { p with sendPoint := p.received }).emptyReady
    else d

/-- NO_PROGRESS (R147). -/
def Dev.noProgress (d : Dev) : Dev :=
  match d.dtu.posting with
  | none => d
  | some p => if p.state ≠ .waiting ∧ 64 ≤ p.timer then d.failPosting .noProgress else d

/-! ### Configuration -/

/-- The function's configuration as the host leaves it: MSI enable (R180) and bus-master enable (R179, log 8). -/
def Dev.configure (c : FunctionSetup) (d : Dev) : Dev :=
  { d with pcie := { d.pcie with msiEnable := c.msi, busMaster := c.busMaster } }

end Sys2Proof.Machine
end

