-- ==== Sys2Proof/Machine/ExecChain.lean ====
section
/-! DEFINITION. Meanings of the Chain Manager's commands (chapters 1, 3, 4). -/
namespace Sys2Proof.Machine

/-- RELEASE_COMPLETE (R18). -/
def execReleaseComplete (s : State) : Host.Outcome State Fault Refusal :=
  s.runSettled Dev.releaseComplete

/-- RESUME_TIMER (R14). -/
def execResumeTimer (s : State) : Host.Outcome State Fault Refusal :=
  s.run Dev.resumeTimerExpiry

/-- LOST_EXPIRY (R15). -/
def execLostExpiry (k : Pos) (s : State) : Host.Outcome State Fault Refusal :=
  s.runSettled (Dev.lostExpiry k)

/-- DISCOVERY_STEP (R50). -/
def execDiscoveryStep (s : State) : Host.Outcome State Fault Refusal :=
  s.runSettled Dev.discoveryStep

/-- OBSERVATION_END (R52). -/
def execObservationEnd (s : State) : Host.Outcome State Fault Refusal :=
  s.runSettled Dev.observationEnd

/-- FRONTIER_TIMER (R62, R63, R64). -/
def execFrontierTimer (s : State) : Host.Outcome State Fault Refusal :=
  s.run Dev.frontierTimer

/-- SETTLING_END (R77). -/
def execSettlingEnd (s : State) : Host.Outcome State Fault Refusal :=
  s.runSettled Dev.settlingEnd

/-- LOCATE_OBSERVATION_END (R78). -/
def execLocateObservationEnd (s : State) : Host.Outcome State Fault Refusal :=
  s.runSettled Dev.locateObservationEnd

end Sys2Proof.Machine
end

