-- ==== Sys2Proof/Machine/ExecDisplay.lean ====
section
/-! DEFINITION. Meanings of the Display Transfer Unit's commands (chapter 8). -/
namespace Sys2Proof.Machine

/-- CURSOR_READ_COMPLETE (R139). -/
def execCursorReadComplete (x : CursorData) (s : State) : Host.Outcome State Fault Refusal :=
  s.runOffered (Dev.cursorRead x)

/-- PIXEL_READ_COMPLETE (R144). -/
def execPixelReadComplete (tile : Option (BitVec 4096)) (s : State) : Host.Outcome State Fault Refusal :=
  s.runOffered (Dev.pixelRead tile)

/-- GO_BACK (R145). -/
def execGoBack (s : State) : Host.Outcome State Fault Refusal :=
  s.runOffered Dev.goBack

/-- NO_PROGRESS (R147). -/
def execNoProgress (s : State) : Host.Outcome State Fault Refusal :=
  s.runOffered Dev.noProgress

/-- OUTCOME_WRITE_COMPLETE (R142). -/
def execOutcomeWriteComplete (s : State) : Host.Outcome State Fault Refusal :=
  s.runOffered Dev.outcomeWritten

end Sys2Proof.Machine
end

