-- ==== Sys2Proof/Machine/ExecExchange.lean ====
section
/-! DEFINITION. Meanings of the Exchange Port's commands (chapter 11). -/
namespace Sys2Proof.Machine

/-- WINDOW_ACCESS_GRANT (R177). -/
def execWindowAccessGrant (s : State) : Host.Outcome State Fault Refusal :=
  s.runOffered Dev.grant

/-- WINDOW_STALL (R179). -/
def execWindowStall (s : State) : Host.Outcome State Fault Refusal :=
  s.runOffered Dev.windowFailure

/-- STALL_RETRY (R179). -/
def execStallRetry (s : State) : Host.Outcome State Fault Refusal :=
  s.run Dev.stallRetry

/-- STALL_RETRY_COMPLETE (R179). -/
def execStallRetryComplete (version : Option W16) (s : State) : Host.Outcome State Fault Refusal :=
  s.runOffered (Dev.stallRetryComplete version)

/-- ENABLE (R174). -/
def execEnable (s : State) : Host.Outcome State Fault Refusal :=
  s.run Dev.enableOn

/-- LAYOUT_VERSION_READ (R174). -/
def execLayoutVersionRead (version : Option W16) (s : State) : Host.Outcome State Fault Refusal :=
  s.run (Dev.layoutRead version)

/-- STARTING_COMPLETE (R174). -/
def execStartingComplete (s : State) : Host.Outcome State Fault Refusal :=
  s.runOffered Dev.enterRunning

/-- DISABLE (R174). -/
def execDisable (s : State) : Host.Outcome State Fault Refusal :=
  s.run Dev.disable

/-- SEQUENCE_ENDED (R134). -/
def execSequenceEnded (s : State) : Host.Outcome State Fault Refusal :=
  s.runOffered Dev.sequenceEnded

/-- FINAL_DRAIN_END (R134). -/
def execFinalDrainEnd (s : State) : Host.Outcome State Fault Refusal :=
  s.run Dev.finalDrainEnd

/-- RESET (R175). -/
def execReset (s : State) : Host.Outcome State Fault Refusal :=
  s.run Dev.functionReset

/-- NOTICE_ON (R180). -/
def execNoticeOn (on : Bool) (s : State) : Host.Outcome State Fault Refusal :=
  s.run (Dev.setNoticeOn on)

/-- NOTICE_MASK (R180). -/
def execNoticeMask (on : Bool) (s : State) : Host.Outcome State Fault Refusal :=
  s.run (Dev.setNoticeMask on)

/-- NUDGE: any value (R173). -/
def execNudge (_value : W32) (s : State) : Host.Outcome State Fault Refusal :=
  s.run Dev.nudge

/-- REGISTER_WRITE (R173). -/
def execRegisterWrite (offset : BitVec 12) (value : W32) (s : State) : Host.Outcome State Fault Refusal :=
  s.run (Dev.writeReg offset value)

/-- POWER_ON_RESET (R175). -/
def execPowerOnReset (s : State) : Host.Outcome State Fault Refusal :=
  s.run Dev.powerOnReset

/-- MSI_ENABLE: the write of the function's configuration, with bus-master enable beside MSI enable (R179, R180, log 8). -/
def execMsiEnable (on : FunctionSetup) (s : State) : Host.Outcome State Fault Refusal :=
  s.run (Dev.configure on)

end Sys2Proof.Machine
end

