-- ==== Sys2Proof/Machine/ExecIntent.lean ====
section
/-! DEFINITION. Meanings of the Intent Reconciler's commands (chapter 6). -/
namespace Sys2Proof.Machine

/-- SCAN (R178). -/
def execScan (s : State) : Host.Outcome State Fault Refusal :=
  s.runOffered Dev.scan

/-- INTENT_READ_COMPLETE (R107). -/
def execIntentReadComplete (x : IntentData) (s : State) : Host.Outcome State Fault Refusal :=
  s.runSettled (Dev.intentRead x)

/-- REDERIVE (R116). -/
def execRederive (k : Pos) (s : State) : Host.Outcome State Fault Refusal :=
  s.runOffered (Dev.rederive k)

/-- ATTENTION_STALE (R119). -/
def execAttentionStale (k : Pos) (s : State) : Host.Outcome State Fault Refusal :=
  s.runOffered (Dev.attentionStale k)

end Sys2Proof.Machine
end

