-- ==== Sys2Proof/Machine/ExecJournal.lean ====
section
/-! DEFINITION. Meanings of the Input Collector's commands (chapter 7). -/
namespace Sys2Proof.Machine

/-- TAKEN_COUNT_READ (R131). -/
def execTakenCountRead (t : W32) (s : State) : Host.Outcome State Fault Refusal :=
  s.runOffered (Dev.takenRead t)

/-- JOURNAL_ENTRY_WRITE (R130). -/
def execJournalEntryWrite (s : State) : Host.Outcome State Fault Refusal :=
  s.runOffered Dev.journalWritten

/-- WRITE_COUNT_WRITE (R130). -/
def execWriteCountWrite (s : State) : Host.Outcome State Fault Refusal :=
  s.runOffered Dev.countWritten

end Sys2Proof.Machine
end

