-- ==== Sys2Proof/Machine/ExecLink.lean ====
section
/-! DEFINITION. Meanings of the link's commands (chapter 2). -/
namespace Sys2Proof.Machine

/-- SUPERFRAME (R22). -/
def execSuperframe (s : State) : Host.Outcome State Fault Refusal :=
  s.run Dev.superframe

/-- QUEUE_REOFFER (R40). -/
def execQueueReoffer (s : State) : Host.Outcome State Fault Refusal :=
  s.runSettled Dev.queueReoffer

/-- ANSWER (R26). -/
def execAnswer (w : Window) (frame : Option (List Byte)) (s : State) : Host.Outcome State Fault Refusal :=
  s.runSettled (Dev.answerIn w frame)

/-- LOSS_REPORT (R13). -/
def execLossReport (k : Pos) (s : State) : Host.Outcome State Fault Refusal :=
  s.runSettled (Dev.lossReport k)

/-- INTERRUPTION_REPORT (R46). -/
def execInterruptionReport (s : State) : Host.Outcome State Fault Refusal :=
  s.runSettled Dev.interruptionReport

/-- ERROR_WINDOW_END (R47). -/
def execErrorWindowEnd (s : State) : Host.Outcome State Fault Refusal :=
  s.run Dev.errorWindowEnd

end Sys2Proof.Machine
end

