-- ==== Sys2Proof/Machine/ExecPower.lean ====
section
/-! DEFINITION. Meanings of the Power Contract Unit's and the Side Line Unit's commands (chapters 9, 10). -/
namespace Sys2Proof.Machine

/-- LINE_DEBOUNCE (R170). -/
def execLineDebounce (n : Line) (s : State) : Host.Outcome State Fault Refusal :=
  s.runSettled (Dev.lineDebounce n)

/-- CONTRACT_TIMEOUT (R157). -/
def execContractTimeout (s : State) : Host.Outcome State Fault Refusal :=
  s.runSettled Dev.contractTimeout

/-- BRACE_END (R161). -/
def execBraceEnd (s : State) : Host.Outcome State Fault Refusal :=
  s.runSettled Dev.braceEnd

end Sys2Proof.Machine
end

