-- ==== Sys2Proof/Machine/ExecPublish.lean ====
section
/-! DEFINITION. Meanings of the completed writes of published sections (R19, R81, R120). -/
namespace Sys2Proof.Machine

/-- ENTRY_SECTION_WRITE (R19). -/
def execEntrySectionWrite (s : State) : Host.Outcome State Fault Refusal :=
  s.runOffered Dev.entryClosed

/-- APPLIED_SECTION_WRITE (R120). -/
def execAppliedSectionWrite (s : State) : Host.Outcome State Fault Refusal :=
  s.runOffered Dev.appliedClosed

/-- FAULT_TOTAL_WRITE (R81). -/
def execFaultTotalWrite (s : State) : Host.Outcome State Fault Refusal :=
  s.runOffered Dev.totalWritten

end Sys2Proof.Machine
end

