-- ==== Sys2Proof/Machine/ExecResults.lean ====
section
/-! DEFINITION. Meanings of the results of control messages (R42 and the chapter of each). -/
namespace Sys2Proof.Machine

/-- PROBE_RESULT (R6). -/
def execProbeResult (s : State) : Host.Outcome State Fault Refusal :=
  s.runSettled (Dev.withResult (fun r => r.payload == .probe) Dev.probeResult)

/-- RESUME_RESULT (R10). -/
def execResumeResult (s : State) : Host.Outcome State Fault Refusal :=
  s.runSettled (Dev.withResult (fun r => r.payload.isResume) fun r code => Dev.resumeResult r.pos code)

/-- READ_RESULT (R60). -/
def execReadResult (s : State) : Host.Outcome State Fault Refusal :=
  s.runSettled (Dev.withResult (fun r => r.payload.isRead) Dev.readDone)

/-- SET_RESULT (R114). -/
def execSetResult (s : State) : Host.Outcome State Fault Refusal :=
  s.runSettled (Dev.withResult (fun r => r.payload.isSet) Dev.setDone)

/-- SEGMENT_RESULT (R51). -/
def execSegmentResult (s : State) : Host.Outcome State Fault Refusal :=
  s.runSettled (Dev.withResult (fun r => r.payload.isSegment) Dev.segmentDone)

/-- SUPPLY_RESULT (R156). -/
def execSupplyResult (s : State) : Host.Outcome State Fault Refusal :=
  s.runSettled (Dev.withResult (fun r => r.payload.isSupply) Dev.supplyDone)

/-- COMMIT_RESULT (R146). -/
def execCommitResult (s : State) : Host.Outcome State Fault Refusal :=
  s.runOffered (Dev.withResult (fun r => r.payload.isCommit) Dev.commitDone)

/-- DISCARD_RESULT: the result of a DISCARD asks for nothing; one that ended NO_REPLY is queued again at the next ANSWER
that shows staging not empty (R145, R151). -/
def execDiscardResult (s : State) : Host.Outcome State Fault Refusal :=
  s.run (Dev.withResult (fun r => r.payload == .discard) fun _ _ d => d)

/-- STATUS_BLOCK_RESULT (R165). -/
def execStatusBlockResult (s : State) : Host.Outcome State Fault Refusal :=
  s.runSettled (Dev.withResult (fun r => r.payload.isStatusBlock) Dev.blockDone)

/-- RELEASE_RESULT: any result counts as done (R16, R99). -/
def execReleaseResult (s : State) : Host.Outcome State Fault Refusal :=
  s.runSettled (Dev.withResult (fun r => r.payload == .release) fun r _ => Dev.releaseDone r)

end Sys2Proof.Machine
end

