-- ==== Sys2Proof/Machine/ExecSession.lean ====
section
/-! DEFINITION. Meanings of the Session Controller's commands (chapter 5). -/
namespace Sys2Proof.Machine

/-- DOCK_SENSE (R84). -/
def execDockSense (active : Bool) (s : State) : Host.Outcome State Fault Refusal :=
  s.run (Dev.dockSense active)

/-- SENSE_RUN_REACHED (R85, R88, R101). -/
def execSenseRunReached (s : State) : Host.Outcome State Fault Refusal :=
  s.runSettled Dev.senseRunReached

/-- BRINGUP_PROBE (R87). -/
def execBringupProbe (s : State) : Host.Outcome State Fault Refusal :=
  s.run Dev.bringupProbe

/-- NO_CRADLE (R87). -/
def execNoCradle (s : State) : Host.Outcome State Fault Refusal :=
  s.runOffered Dev.noCradle

/-- HOLD_TICK (R92). -/
def execHoldTick (s : State) : Host.Outcome State Fault Refusal :=
  s.run Dev.holdTickDue

/-- HOLD_OVER_EXPIRY (R96). -/
def execHoldOverExpiry (s : State) : Host.Outcome State Fault Refusal :=
  s.runSettled Dev.holdOverExpiry

/-- INPUT_DRAIN_END (R98). -/
def execInputDrainEnd (s : State) : Host.Outcome State Fault Refusal :=
  s.runSettled Dev.inputDrainEnd

/-- RELEASED_TIMER (R101). -/
def execReleasedTimer (s : State) : Host.Outcome State Fault Refusal :=
  s.runSettled Dev.releasedTimerEnd

end Sys2Proof.Machine
end

