-- ==== Sys2Proof/Machine/Dispatch.lean ====
section
/-! DEFINITION. The meaning of every command. -/
namespace Sys2Proof.Machine

def exec (i : Instr) (s : State) : Host.Outcome State Fault Refusal :=
  match i with
  | .superframe => Sys2Proof.Machine.execSuperframe s
  | .queueReoffer => Sys2Proof.Machine.execQueueReoffer s
  | .answer w frame => Sys2Proof.Machine.execAnswer w frame s
  | .lossReport k => Sys2Proof.Machine.execLossReport k s
  | .interruptionReport => Sys2Proof.Machine.execInterruptionReport s
  | .errorWindowEnd => Sys2Proof.Machine.execErrorWindowEnd s
  | .probeResult => Sys2Proof.Machine.execProbeResult s
  | .resumeResult => Sys2Proof.Machine.execResumeResult s
  | .readResult => Sys2Proof.Machine.execReadResult s
  | .setResult => Sys2Proof.Machine.execSetResult s
  | .segmentResult => Sys2Proof.Machine.execSegmentResult s
  | .supplyResult => Sys2Proof.Machine.execSupplyResult s
  | .commitResult => Sys2Proof.Machine.execCommitResult s
  | .discardResult => Sys2Proof.Machine.execDiscardResult s
  | .statusBlockResult => Sys2Proof.Machine.execStatusBlockResult s
  | .releaseResult => Sys2Proof.Machine.execReleaseResult s
  | .releaseComplete => Sys2Proof.Machine.execReleaseComplete s
  | .resumeTimer => Sys2Proof.Machine.execResumeTimer s
  | .lostExpiry k => Sys2Proof.Machine.execLostExpiry k s
  | .discoveryStep => Sys2Proof.Machine.execDiscoveryStep s
  | .observationEnd => Sys2Proof.Machine.execObservationEnd s
  | .frontierTimer => Sys2Proof.Machine.execFrontierTimer s
  | .settlingEnd => Sys2Proof.Machine.execSettlingEnd s
  | .locateObservationEnd => Sys2Proof.Machine.execLocateObservationEnd s
  | .dockSense active => Sys2Proof.Machine.execDockSense active s
  | .senseRunReached => Sys2Proof.Machine.execSenseRunReached s
  | .bringupProbe => Sys2Proof.Machine.execBringupProbe s
  | .noCradle => Sys2Proof.Machine.execNoCradle s
  | .holdTick => Sys2Proof.Machine.execHoldTick s
  | .holdOverExpiry => Sys2Proof.Machine.execHoldOverExpiry s
  | .inputDrainEnd => Sys2Proof.Machine.execInputDrainEnd s
  | .releasedTimer => Sys2Proof.Machine.execReleasedTimer s
  | .scan => Sys2Proof.Machine.execScan s
  | .intentReadComplete x => Sys2Proof.Machine.execIntentReadComplete x s
  | .rederive k => Sys2Proof.Machine.execRederive k s
  | .attentionStale k => Sys2Proof.Machine.execAttentionStale k s
  | .lineDebounce n => Sys2Proof.Machine.execLineDebounce n s
  | .contractTimeout => Sys2Proof.Machine.execContractTimeout s
  | .braceEnd => Sys2Proof.Machine.execBraceEnd s
  | .cursorReadComplete x => Sys2Proof.Machine.execCursorReadComplete x s
  | .pixelReadComplete tile => Sys2Proof.Machine.execPixelReadComplete tile s
  | .goBack => Sys2Proof.Machine.execGoBack s
  | .noProgress => Sys2Proof.Machine.execNoProgress s
  | .outcomeWriteComplete => Sys2Proof.Machine.execOutcomeWriteComplete s
  | .takenCountRead t => Sys2Proof.Machine.execTakenCountRead t s
  | .journalEntryWrite => Sys2Proof.Machine.execJournalEntryWrite s
  | .writeCountWrite => Sys2Proof.Machine.execWriteCountWrite s
  | .entrySectionWrite => Sys2Proof.Machine.execEntrySectionWrite s
  | .appliedSectionWrite => Sys2Proof.Machine.execAppliedSectionWrite s
  | .faultTotalWrite => Sys2Proof.Machine.execFaultTotalWrite s
  | .windowAccessGrant => Sys2Proof.Machine.execWindowAccessGrant s
  | .windowStall => Sys2Proof.Machine.execWindowStall s
  | .stallRetry => Sys2Proof.Machine.execStallRetry s
  | .stallRetryComplete version => Sys2Proof.Machine.execStallRetryComplete version s
  | .enable => Sys2Proof.Machine.execEnable s
  | .layoutVersionRead version => Sys2Proof.Machine.execLayoutVersionRead version s
  | .startingComplete => Sys2Proof.Machine.execStartingComplete s
  | .disable => Sys2Proof.Machine.execDisable s
  | .sequenceEnded => Sys2Proof.Machine.execSequenceEnded s
  | .finalDrainEnd => Sys2Proof.Machine.execFinalDrainEnd s
  | .reset => Sys2Proof.Machine.execReset s
  | .noticeOn on => Sys2Proof.Machine.execNoticeOn on s
  | .noticeMask on => Sys2Proof.Machine.execNoticeMask on s
  | .nudge value => Sys2Proof.Machine.execNudge value s
  | .registerWrite offset value => Sys2Proof.Machine.execRegisterWrite offset value s
  | .powerOnReset => Sys2Proof.Machine.execPowerOnReset s
  | .msiEnable on => Sys2Proof.Machine.execMsiEnable on s

end Sys2Proof.Machine
end

