-- ==== Sys2Proof/Machine/Node.lean ====
section
/-! DEFINITION. A node as bus partner (2.3, 2.4, 7.1, 8.1): what answers on the other end of the pair. It is no part of State: the part meets it through the bytes of its superframes and the ANSWER command (log 23). -/
namespace Sys2Proof.Machine.Bus

open Sys2Proof Sys2Proof.Machine

/-- What a node is built as. -/
structure Build where
  identity : Identity
  descriptor : List Byte
  port : Bool
  statusConsumer : Bool
  indicators : Nat
  depth : Nat
  staging : Nat
deriving DecidableEq, Repr

/-- The reply a node keeps of the last CTRL it acted on (R25). -/
structure Kept where
  tag : BitVec 4
  kind : Nat
  code : ReplyCode
  payload : List Byte
deriving DecidableEq, Repr

/-- The key input buffer (R122). -/
structure KeyBuffer where
  entries : List InputEntry
  next : Byte
  lastAck : Byte
  sendPoint : Nat
  rewind : Nat
  lost : W16
deriving DecidableEq, Repr

/-- A tile as a display holds it: column, row, 512 pixel bytes. -/
structure NodeTile where
  column : Byte
  row : Byte
  pixels : List Byte
deriving DecidableEq, Repr

/-- The tile state of a display (R136). The framebuffer is the tiles written, the latest first. -/
structure Panel where
  frame : List NodeTile
  stagedTiles : List NodeTile
  batch : Byte
  pendingCommit : Option (Byte × List NodeTile)
  lastTag : Byte
deriving DecidableEq, Repr

structure Node where
  build : Build
  position : Option Byte
  session : Option W16
  held : Bool
  /-- consecutive superframes without an intact SYNC -/
  quiet : Nat
  holdTimer : Nat
  holdLimit : Nat
  kept : Option Kept
  switch : SegSetting
  /-- SHORTED was measured: it is reported, and the switch stays open, until the node is told OFF (R66) -/
  shorted : Bool
  /-- the last sense code measured -/
  sense : Byte
  keys : KeyBuffer
  panel : Panel
  cradle : CradleFields
  /-- settings applied, the latest first -/
  settings : List SetItem
  block : List Byte
deriving DecidableEq, Repr

/-- What a node may do in its own time: it is still busy, or a cradle rejects a request. -/
structure Mood where
  busy : Bool
  rejects : Bool
deriving DecidableEq, Repr

abbrev Reply := ReplyCode × List Byte

def KeyBuffer.empty : KeyBuffer := { entries := [], next := 1, lastAck := 0, sendPoint := 0, rewind := 0, lost := 0 }

/-- Staging is emptied; a pending commit stays (R137). -/
def Panel.discard (p : Panel) : Panel := { p with stagedTiles := [] }

/-- A LINE_ROLE or LINE_LEVEL item. -/
def ofLine (i : SetItem) : Bool := i.item == .lineRole || i.item == .lineLevel

/-- The position, and what goes with it, is dropped (R27, R137): every line is an input and nothing is driven (R169). The last
committed tag and the batch tag of the staging stay (log 69). -/
def Node.drop (n : Node) : Node :=
  { n with
    position := none, session := none, held := false, quiet := 0, holdTimer := 0, kept := none, switch := .off
    shorted := false, settings := n.settings.filter fun i => !ofLine i
    keys := { KeyBuffer.empty with next := n.keys.next }
    panel := { n.panel.discard with pendingCommit := none } }

/-- Power-up, and the return after a loss of power (R27, R28, R137); the batch tag of the staging is 0 (log 69), and the code
reported with the segment OFF is the one from before the loss of power until one is measured (R34, log 84). -/
def Node.powerUp (n : Node) : Node :=
  { n.drop with
    holdLimit := 1750, settings := [], block := [], keys := KeyBuffer.empty
    panel := { frame := [], stagedTiles := [], batch := 0, pendingCommit := none, lastTag := 0 } }

/-- Node-hold begins (R28). -/
def Node.enterHold (n : Node) : Node :=
  if n.held || n.position.isNone then n
  else { n with held := true, holdTimer := 0, kept := none, panel := n.panel.discard }

/-- A node in node-hold goes on as before: its unacknowledged input is sent again, the rewind count at 0 (R28, log 97). -/
def Node.leaveHold (n : Node) : Node :=
  { n with held := false, quiet := 0, kept := none, keys := { n.keys with sendPoint := 0, rewind := 0 } }

/-- Messages are passed on downstream: never behind an OFF switch, a PROBE not in node-hold (R23). -/
def Node.relays (n : Node) (isProbe : Bool) : Bool := n.switch != .off && !(isProbe && n.held)

/-! ### Key input (R122) -/

/-- A key transition. -/
def Node.key (code : W16) (direction : Byte) (n : Node) : Node :=
  if n.session.isNone then n
  else if n.build.depth ≤ n.keys.entries.length then { n with keys := { n.keys with lost := n.keys.lost + 1 } }
  else
    let e : InputEntry := { seq := n.keys.next, key := code, direction := direction }
    { n with keys := { n.keys with entries := n.keys.entries ++ [e], next := n.keys.next + 1 } }

/-- The acknowledgment of an intact SYNC. -/
def KeyBuffer.acknowledge (ack : Byte) (b : KeyBuffer) : KeyBuffer :=
  match b.entries.findIdx? fun e => e.seq == ack with
  | none => b
  | some i => { b with entries := b.entries.drop (i + 1), sendPoint := b.sendPoint - (i + 1), lastAck := ack, rewind := 0 }

/-- A superframe in which entries sent stay in the buffer (R122). Entries sent before a rewind and not again since it count as
not sent: with the send point at the oldest the rewind count stands (log 87). -/
def KeyBuffer.wait (b : KeyBuffer) : KeyBuffer :=
  if b.sendPoint = 0 then b
  else if 4 ≤ b.rewind + 1 then { b with sendPoint := 0, rewind := 0 }
  else { b with rewind := b.rewind + 1 }

/-- A TOKEN is taken: the buffer is emptied into the lost count, the rewind count at 0 (R122, log 97). -/
def KeyBuffer.token (b : KeyBuffer) : KeyBuffer :=
  { KeyBuffer.empty with lost := BitVec.ofNat 16 b.entries.length }

/-! ### The superframe's SYNC (R22, R24, R28) -/

/-- The bytes of a message whose CRC is good. -/
def intact (frame : List Byte) : Option (List Byte) :=
  let body := frame.take (frame.length - 2)
  match frame.drop (frame.length - 2) with
  | [c0, c1] => if crc16 body = ofLe16 c0 c1 then some body else none
  | _ => none

/-- The acknowledgment and the hold flag a SYNC has for a position. The rewind count advances on the SYNC, ahead of the ANSWER (the
model's choice, log 108). -/
def Node.takeSync (sync : List Byte) (n : Node) : Node :=
  match n.position with
  | none => { n with quiet := 0 }
  | some k =>
    let keys := n.keys.acknowledge (sync.getD (8 + k.toNat) 0)
    let n := { n with quiet := 0, keys := if n.held || keys.lastAck != n.keys.lastAck then keys else keys.wait }
    if (sync.getD 8 0).getLsbD 0 then n.enterHold else n

/-- A superframe without an intact SYNC. -/
def Node.missSync (n : Node) : Node :=
  { n with quiet := n.quiet + 1, keys := if n.held then n.keys else n.keys.wait }

/-- The hold timer; at its end the position is dropped without a message. -/
def Node.holdTick (n : Node) : Node :=
  if n.holdLimit ≤ n.holdTimer + 1 then n.drop else { n with holdTimer := n.holdTimer + 1 }

/-- A superframe begins: the hold timer runs, and the superframe behind eight in a row without an intact SYNC is the one in
which node-hold begins (R28: cut off since 10000, in node-hold at 10008, its position dropped at 11758). -/
def Node.begin (n : Node) : Node :=
  if n.held then n.holdTick else if 8 ≤ n.quiet then n.enterHold else n

/-! ### Control messages (R25, R29 to R39) -/

/-- A setting item is one the node's kind takes, with a value in range (R33). -/
def Build.supports (b : Build) (i : SetItem) : Bool :=
  let keyed := b.identity.kind == .keyboard || b.identity.kind == .keystrip
  let v := i.value.toNat
  match i.item with
  | .token => decide (1 ≤ v)
  | .holdLimit => decide (350 ≤ v ∧ v ≤ 5250)
  | .indicator => keyed && decide (i.index.toNat < b.indicators ∧ v ≤ 3)
  | .keyBacklight => keyed && decide (v ≤ 7)
  | .displayBacklight => b.identity.kind == .display && decide (v ≤ 15)
  | .displayMode => b.identity.kind == .display && decide (v ≤ 2)
  | .attention => (keyed || b.identity.kind == .display) && decide (v ≤ 2)
  | .lineRole => b.identity.kind == .cradle && decide (i.index.toNat < 4 ∧ v ≤ 1)
  | .lineLevel => b.identity.kind == .cradle && decide (i.index.toNat < 4 ∧ v ≤ 1)

def ItemCode.ofCode? (b : Byte) : Option ItemCode :=
  [ItemCode.token, .holdLimit, .indicator, .keyBacklight, .displayBacklight, .displayMode, .attention, .lineRole,
    .lineLevel][b.toNat]?

/-- The items of a SET's payload; none when a code is undefined (R185, R186). -/
def parseItems : List Byte → Option (List SetItem)
  | [] => some []
  | c :: i :: v0 :: v1 :: bs =>
    match ItemCode.ofCode? c, parseItems bs with
    | some c, some is => some ({ item := c, index := i, value := ofLe16 v0 v1 } :: is)
    | _, _ => none
  | _ => none

def Node.applyItem (n : Node) (i : SetItem) : Node :=
  let n := { n with settings := i :: n.settings.filter fun j => !(j.item == i.item && j.index == i.index) }
  match i.item with
  | .token => { n with session := some i.value, keys := n.keys.token }
  | .holdLimit => { n with holdLimit := i.value.toNat }
  | _ => n

/-- The 16 bytes of a READ (R32). -/
def Node.readBytes (n : Node) (offset : Nat) : List Byte :=
  (List.range 16).map fun i => if 255 < offset + i then 0 else n.build.descriptor.getD (offset + i) 0

/-- RESUME (R28, R31). -/
def Node.resume (s : W16) (n : Node) : Node × Reply :=
  if n.session = some s then (if n.held then n.leaveHold else n, (.done, []))
  else if n.session.isNone then (if n.held then n.leaveHold else n, (.mismatch, []))
  else (n.drop, (.mismatch, []))

/-- SET (R33). A node still busy answers BUSY before it checks the items (log 74). -/
def Node.set (m : Mood) (body : List Byte) (n : Node) : Node × Reply :=
  if m.busy then (n, (.busy, []))
  else match parseItems body with
    | none => (n, (.refused, []))
    | some items =>
      if items.all n.build.supports && (n.session.isSome || items.any fun i => i.item == .token) then
        (items.foldl Node.applyItem n, (.done, []))
      else (n, (.refused, []))

/-- SEGMENT (R34). A switch that has opened itself on a short stays open until OFF (R66, log 23). -/
def Node.segment (setting : Byte) (n : Node) : Node × Reply :=
  if !n.build.port then (n, (.refused, []))
  else if setting = 0 then ({ n with switch := .off, shorted := false }, (.done, []))
  else if setting = 1 then ({ n with switch := if n.shorted then .off else .on }, (.done, []))
  else if setting = 2 then ({ n with switch := if n.shorted then .off else .diag }, (.done, []))
  else (n, (.refused, []))

/-- A sense code is measured while the segment has power; SHORTED opens the switch at once (R34, R66). -/
def Node.measure (code : Byte) (n : Node) : Node :=
  if n.switch = .off then n
  else if code = SenseCode.shorted.code then { n with sense := code, switch := .off, shorted := true }
  else { n with sense := code }

/-- The supply state a cradle reports of its own accord: the change in progress ends, or an offer is dropped (R35, R157). -/
def Node.supplyMoves (s : SupplyState) (n : Node) : Node := { n with cradle := { n.cradle with supply := s.code } }

/-- SUPPLY (R29, R35): position 1 and a session are needed; a change in progress is answered BUSY; from the DONE on a change
is in progress. -/
def Node.supply (m : Mood) (offer : Byte) (n : Node) : Node × Reply :=
  if n.build.identity.kind != .cradle || n.position != some 1 || n.session.isNone then (n, (.refused, []))
  else if m.busy || n.cradle.supply == SupplyState.transition.code then (n, (.busy, []))
  else if m.rejects || !n.cradle.enabled.getLsbD offer.toNat then (n, (.refused, []))
  else (n.supplyMoves .transition, (.done, []))

/-- COMMIT (R36, R137). A node does not know how many tiles a batch has: it holds those it has taken of it. -/
def Node.commit (tag : Byte) (n : Node) : Node × Reply :=
  if n.build.identity.kind != .display || n.session.isNone then (n, (.refused, []))
  else if n.panel.pendingCommit.isSome then (n, (.busy, []))
  else if n.panel.batch = tag ∧ n.panel.stagedTiles ≠ [] then
    ({ n with panel := { n.panel.discard with pendingCommit := some (tag, n.panel.stagedTiles) } }, (.done, []))
  else (n, (.refused, []))

/-- DISCARD (R37). -/
def Node.discard (n : Node) : Node × Reply :=
  if n.build.identity.kind != .display || n.session.isNone then (n, (.refused, []))
  else ({ n with panel := n.panel.discard }, (.done, []))

/-- STATUS_BLOCK (R38). -/
def Node.statusBlock (body : List Byte) (n : Node) : Node × Reply :=
  if n.build.statusConsumer && n.session.isSome then ({ n with block := body }, (.done, [])) else (n, (.refused, []))

/-- The action on a CTRL of a kind other than PROBE, which a node claims by `Node.probe`. -/
def Node.act (m : Mood) (kind : Nat) (body : List Byte) (n : Node) : Node × Reply :=
  let b (i : Nat) : Byte := body.getD i 0
  match kind with
  | 1 => n.resume (ofLe16 (b 0) (b 1))
  | 2 => if m.busy then (n, (.busy, [])) else (n, (.done, n.readBytes (b 0).toNat))
  | 3 => n.set m body
  | 4 => n.segment (b 0)
  | 5 => n.supply m (b 0)
  | 6 => n.commit (b 0)
  | 7 => n.discard
  | 8 => n.statusBlock body
  | _ => (n.drop, (.done, []))

/-- The node keeps the reply of a CTRL it acted on: BUSY says that it did not act (R25). One it answered REFUSED is kept too
(log 72). -/
def Node.keep (tag : BitVec 4) (kind : Nat) (r : Reply) (n : Node) : Node :=
  if n.position.isNone then { n with kept := none }
  else if r.1 = .busy then n
  else { n with kept := some { tag := tag, kind := kind, code := r.1, payload := r.2 } }

/-- The kept reply, where a CTRL is a resend of the last one acted on (R25). -/
def Node.keptReply (tag : BitVec 4) (kind : Nat) (n : Node) : Option Reply :=
  (n.kept.filter fun k => k.tag == tag && k.kind == kind).map fun k => (k.code, k.payload)

/-- A CTRL addressed to the node's position: in node-hold RESUME and RELEASE alone; a resend gets the kept reply, and of any
other tag, kind and reply are kept, of a RESUME that ends node-hold too (R25, R28). -/
def Node.takeCtrl (m : Mood) (tag : BitVec 4) (kind : Nat) (body : List Byte) (n : Node) : Node × Option Reply :=
  if n.held ∧ kind ≠ 1 ∧ kind ≠ 9 then (n, none)
  else match n.keptReply tag kind with
    | some r => (n, some r)
    | none =>
      let r := n.act m kind body
      (r.1.keep tag kind r.2, some r.2)

/-- The identity header of a PROBE reply (R185). -/
def Build.header (b : Build) : List Byte :=
  let i := b.identity
  [i.kind.code] ++ le16 i.vendor ++ le16 i.product ++ [i.revision] ++ le32 i.serial

/-- PROBE(k) reaches the node: it claims the position and forgets what it kept, or it answers again and keeps that PROBE as
the last CTRL it acted on (R25, R27, R30). At any other positioned node, one at k with a session among them, there is no
answer (log 73). The framebuffer stays as it was (log 69). -/
def Node.probe (k : Byte) (tag : BitVec 4) (n : Node) : Option (Node × List Byte) :=
  if n.position.isNone then some ({ n with position := some k, quiet := 0, kept := none }, n.build.header)
  else if n.position = some k ∧ n.session.isNone ∧ n.held = false then
    some (n.keep tag 0 (.done, n.build.header), n.build.header)
  else none

/-! ### Tiles (R136, R137) -/

def Panel.take (staging : Nat) (tag : Byte) (index : Nat) (t : NodeTile) (p : Panel) : Panel :=
  if tag ≠ p.batch then (if index = 0 then { p with stagedTiles := [t], batch := tag } else p)
  else if index = p.stagedTiles.length ∧ p.stagedTiles.length < staging then { p with stagedTiles := p.stagedTiles ++ [t] }
  else p

/-- A TILE of a superframe whose target is this node. -/
def Node.tile (tag : Byte) (index : Nat) (t : NodeTile) (n : Node) : Node :=
  if n.held then n else { n with panel := n.panel.take n.build.staging tag index t }

/-- The display frame end: the whole pending commit enters the framebuffer. -/
def Node.frameEnd (n : Node) : Node :=
  match n.panel.pendingCommit with
  | none => n
  | some (tag, tiles) =>
    { n with panel := { n.panel with frame := tiles.reverse ++ n.panel.frame, pendingCommit := none, lastTag := tag } }

/-! ### ANSWER (R26, R185) -/

def replyCodeNat : ReplyCode → Nat
  | .done => 1 | .busy => 2 | .refused => 3 | .mismatch => 4

def replyBytes (r : Option (BitVec 4 × Reply)) : List Byte :=
  match r with
  | none => [0, 0]
  | some (tag, code, payload) =>
    [BitVec.ofNat 8 (tag.toNat + 16 * replyCodeNat code), BitVec.ofNat 8 payload.length] ++ payload

def InputEntry.bytes (e : InputEntry) : List Byte := [e.seq] ++ le16 e.key ++ [e.direction]

def cradleBytes (c : CradleFields) : List Byte :=
  [flagByte [c.ignition, c.dip], c.supply, c.enabled] ++ le32 c.budget ++ [c.levels]

/-- Staging holds no tile and no pending commit. -/
def Panel.isEmpty (p : Panel) : Bool := p.stagedTiles.isEmpty && p.pendingCommit.isNone

/-- The entries an ANSWER carries. -/
def Node.sends (n : Node) : List InputEntry := if n.held then [] else (n.keys.entries.drop n.keys.sendPoint).take 4

/-- The three status flags (R26). -/
def Node.flags (n : Node) : Byte := flagByte [n.session.isSome, n.held, n.keys.entries.isEmpty]

/-- The ANSWER of a positioned node, with the reply to the CTRL it acted on. -/
def Node.answerBytes (k : Byte) (r : Option (BitVec 4 × Reply)) (n : Node) : List Byte :=
  let kind := n.build.identity.kind
  withCrc ([4, k, n.flags] ++ replyBytes r
    ++ [BitVec.ofNat 8 n.sends.length] ++ n.sends.flatMap InputEntry.bytes ++ le16 n.keys.lost
    ++ [flagByte [kind == .cradle, n.build.port, kind == .display]]
    ++ (if kind = .cradle then cradleBytes n.cradle else [])
    ++ (if n.build.port then [n.sense] else [])
    ++ (if kind = .display then
        le16 (BitVec.ofNat 16 n.panel.stagedTiles.length) ++ [n.panel.lastTag, bit n.panel.isEmpty]
      else []))

/-- The send point moves past what the ANSWER carries. -/
def Node.answered (n : Node) : Node :=
  { n with keys := { n.keys with sendPoint := n.keys.sendPoint + n.sends.length } }

/-- The ANSWER of the probe answer window: no entries, no fields by kind. -/
def Node.probeAnswerBytes (k : Byte) (tag : BitVec 4) (header : List Byte) (n : Node) : List Byte :=
  withCrc ([4, k, n.flags] ++ replyBytes (some (tag, .done, header)) ++ [0] ++ le16 n.keys.lost ++ [0])

/-! ### A superframe as a node sees it (R22, R27, R28) -/

/-- A payload length fits a kind; a node discards any other CTRL (R185, R186). -/
def lengthFits (kind len : Nat) : Bool :=
  match kind with
  | 1 => len == 2
  | 2 => len == 1
  | 3 => decide (4 ≤ len ∧ len ≤ 24 ∧ len % 4 = 0)
  | 4 => len == 1
  | 5 => len == 4
  | 6 => len == 1
  | 7 => len == 0
  | 8 => len == 8
  | 9 => len == 0
  | _ => false

/-- The CTRL addressed to a position in the superframe, whose CRC and length are good: tag, kind, payload. A PROBE is not
addressed to a node. -/
def ctrlTo (k : Byte) (msgs : List (List Byte)) : Option (BitVec 4 × Nat × List Byte) :=
  msgs.findSome? fun m => match m with
    | 2 :: target :: tk :: len :: body =>
      if target = k ∧ body.length = len.toNat ∧ lengthFits (tk.toNat / 16) body.length = true then some (tk.extractLsb' 0 4, tk.toNat / 16, body) else none
    | _ => none

/-- The PROBE of the superframe, whose CRC and length are good: the position to be claimed, and its tag. -/
def probeIn (msgs : List (List Byte)) : Option (Byte × BitVec 4) :=
  msgs.findSome? fun m => match m with
    | [2, _, tk, 1, k] => if tk.toNat / 16 = 0 then some (k, tk.extractLsb' 0 4) else none
    | _ => none

/-- The node hears the PROBE of a superframe whose SYNC it has: it answers in the probe answer window, or not at all (R22,
R30). -/
def Node.hearProbe (msgs : List (List Byte)) (n : Node) : Node × Option (List Byte) :=
  match probeIn msgs with
  | none => (n, none)
  | some (k, tag) =>
    match n.probe k tag with
    | none => (n, none)
    | some (n', header) => (n', some (n'.probeAnswerBytes k tag header))

def Node.takeTiles (msgs : List (List Byte)) (n : Node) : Node :=
  msgs.foldl (fun n m => match m with
    | 3 :: tag :: i0 :: i1 :: column :: row :: px =>
      n.tile tag (ofLe16 i0 i1).toNat { column := column, row := row, pixels := px }
    | _ => n) n

/-- What a node says in one superframe: in the window of its position, and in the probe answer window. -/
structure Said where
  answer : Option (List Byte)
  probeAnswer : Option (List Byte)
deriving DecidableEq, Repr

/-- A positioned node in a superframe whose SYNC it has (R24 to R27): the CTRL addressed to it, its tiles, its ANSWER. A PROBE
reaches it where no other CTRL does (R41). -/
def Node.positioned (m : Mood) (k : Byte) (sync : List Byte) (msgs : List (List Byte)) (n : Node) : Node × Said :=
  let ctrl := ctrlTo k msgs
  let taken := match ctrl with
    | some (tag, kind, body) => n.takeCtrl m tag kind body
    | none => (n, none)
  let reply := match ctrl, taken.2 with
    | some (tag, _, _), some r => some (tag, r)
    | _, _ => none
  let tiled := if sync.getD 7 0 = k then taken.1.takeTiles msgs else taken.1
  let heard := if ctrl.isSome then (tiled, none) else tiled.hearProbe msgs
  let listed := (sync.getD 4 0).getLsbD (k.toNat - 1)
  let said := if n.held || heard.1.position.isNone then n else heard.1
  if listed && (!n.held || reply.isSome) then
    (if n.held then heard.1 else heard.1.answered, { answer := some (said.answerBytes k reply), probeAnswer := heard.2 })
  else (heard.1, { answer := none, probeAnswer := heard.2 })

/-- A node in one superframe: what it heard of the wire, and what it says. One without a position hears PROBE alone, and one
that has no intact SYNC acts on nothing (R22, R27). The hold timer counts the superframes after the one that began
node-hold; a node whose timer ends has no position. -/
def Node.superframe (m : Mood) (heard : List (List Byte)) (n : Node) : Node × Said :=
  let msgs := heard.filterMap intact
  let n := n.begin
  match msgs.find? (fun b => b.getD 0 0 == 1), n.position with
  | some sync, some k => (n.takeSync sync).positioned m k sync msgs
  | some sync, none =>
    let heard := (n.takeSync sync).hearProbe msgs
    (heard.1, { answer := none, probeAnswer := heard.2 })
  | none, _ => (n.missSync, { answer := none, probeAnswer := none })

end Sys2Proof.Machine.Bus
end

