-- ==== Sys2Proof/Safety.lean ====
section
/-! DEFINITION. What every step keeps: the bounds of queues, staging and log, the sizes of the fixed tables, and the canonical form of host memory. -/
namespace Sys2Proof.Safety

open Sys2Proof.Machine

/-- A node control queue never holds more than 8 messages, of which at most 7 are not session messages (R40). -/
def QueueOk (q : List Msg) : Prop := q.length ≤ 8 ∧ nonSession q ≤ 7

/-- The bounds a step keeps: the six queues (R40), staging's 32 places (R128), the log's 16 slots (R81), the 64 update
records (R138), and memory's canonical form. -/
structure Inv (d : Dev) : Prop where
  queues : ∀ k, QueueOk (d.queue k)
  staging : d.ic.staging.length ≤ 32
  log : d.cm.log.records.length ≤ 16
  slots : d.pub.slots.length = 16
  serials : d.dtu.serials.length = 64
  memory : Memory.wf d.mem

/-- What no step inside a superframe touches: host memory, the PCIe configuration, stamp and current schedule, the part
state, the latched base, CONTROL's fields and the two window registers (R22, R44, R173, R174). -/
structure Inside (a d : Dev) : Prop where
  mem : d.mem = a.mem
  pcie : d.pcie = a.pcie
  stamp : d.le.stamp = a.le.stamp
  current : d.le.current = a.le.current
  gen : d.le.gen = a.le.gen
  part : d.xp.part = a.xp.part
  base : d.xp.base = a.xp.base
  enable : d.xp.enable = a.xp.enable
  noticeOn : d.xp.noticeOn = a.xp.noticeOn
  noticeMask : d.xp.noticeMask = a.xp.noticeMask
  windowLow : d.xp.windowLow = a.xp.windowLow
  windowHigh : d.xp.windowHigh = a.xp.windowHigh

/-- What may follow a step's own effect in the same superframe, and what it leaves: grants and a BUDGET_SHORT record
(R163), refused pushes compared again (R116), the resume timer (R14), sections and cursor words to be written, requests
offered (R177). -/
structure Settled (own d : Dev) : Prop where
  xp : d.xp = { own.xp with offered := d.xp.offered }
  le : d.le = own.le
  sc : d.sc = own.sc
  ic : d.ic = own.ic
  dtu : d.dtu = own.dtu
  slu : d.slu = own.slu
  pcie : d.pcie = own.pcie
  mem : d.mem = own.mem
  free : d.free = own.free
  cm : d.cm = { own.cm with log := d.cm.log, resumeFor := d.cm.resumeFor, resumeTimer := d.cm.resumeTimer }
  ir : d.ir = { own.ir with pos := d.ir.pos }
  settings : ∀ k, d.ir.pos.get k = { own.ir.pos.get k with blocked := (d.ir.pos.get k).blocked }
  pcu : d.pcu = { own.pcu with
    grantDisplay := d.pcu.grantDisplay, grantKey := d.pcu.grantKey, short := d.pcu.short, baseSum := d.pcu.baseSum
    remainder := d.pcu.remainder }
  pub : d.pub = { own.pub with
    entry := d.pub.entry, chain := d.pub.chain, power := d.pub.power, lines := d.pub.lines, slots := d.pub.slots
    cursor := d.pub.cursor, hostTag := d.pub.hostTag }

/-- The commands that write bytes of host memory (R130, R142, R177, R19, R81, R120). -/
def writesMemory : Instr → Bool
  | .windowAccessGrant => true
  | .outcomeWriteComplete => true
  | .journalEntryWrite => true
  | .writeCountWrite => true
  | .entrySectionWrite => true
  | .appliedSectionWrite => true
  | .faultTotalWrite => true
  | _ => false

/-- The commands that act between superframes, on the part state, on a register or on host memory; every other command is
a step inside a superframe. -/
def actsOutside : Instr → Bool
  | .superframe => true
  | .windowStall => true
  | .enable => true
  | .layoutVersionRead _ => true
  | .startingComplete => true
  | .disable => true
  | .finalDrainEnd => true
  | .reset => true
  | .noticeOn _ => true
  | .noticeMask _ => true
  | .registerWrite _ _ => true
  | .powerOnReset => true
  | .msiEnable _ => true
  | c => writesMemory c

/-- The queue of a position takes a message: it is not answered GONE at once and finds a place (R40). -/
def Takes (d : Dev) (k : Pos) (m : Msg) : Prop := d.goneAtOnce k m = false ∧ queueFull (d.queue k) m = false

/-- The message has joined the tail of the queue of a position (R40). -/
def queued (k : Pos) (sub : Block) (p : Payload) (l : Le) : Le :=
  { l with queues := l.queues.set k (l.queues.get k ++ [Msg.new sub p]) }

/-- A notice counter advanced by 1 (R180). -/
def bumped (c : Cause) (x : Xp) : Xp :=
  { x with
    counters := x.counters.set c (x.counters.get c + 1), noticeRequest := x.noticeRequest || x.enables.get c }

/-- A marker as it is staged in this superframe: direction and sequence have no value (R129, R181). -/
def marker (d : Dev) (kind : ItemKind) (position : Byte) (detail : W16) : Item :=
  { kind := kind, position := position, direction := 0xFF, seq := 0xFF, detail := detail, stamp := d.le.stamp }

/-- Markers join staging in order; those that find it full are dropped and counted (R128, R129). -/
def staged (ms : List Item) (i : Ic) : Ic :=
  { i with staging := i.staging ++ ms.take i.free, dropped := i.dropped + BitVec.ofNat 32 (ms.length - i.free) }

/-- What has been staged and dropped is a list of markers, and nothing else. -/
def Staged (ms : List Item) (s d : Dev) : Prop :=
  d.ic.staging = (staged ms s.ic).staging ∧ d.ic.dropped = (staged ms s.ic).dropped

/-- The markers of a position whose entry goes VACANT: RELEASE_ALL where keys were down, NODE_REMOVED where the node was
announced (R18, R127). -/
def leaving (d : Dev) (k : Pos) : List Item :=
  (if (d.ic.pos.get k).keyDown = 0 then [] else [marker d .releaseAll (posByte k) 0xFFFF]) ++
    (if (d.entry k).announced then [marker d .nodeRemoved (posByte k) 0xFFFF] else [])

/-- Those of every entry the pending release covers, in chain order (R18). -/
def leavingCovered (d : Dev) : List Item := (Pos.all.filter fun k => (d.entry k).releasing).flatMap (leaving d)

/-- Those of every entry in the table, in chain order. -/
def leavingAll (d : Dev) : List Item := (Pos.all.filter fun k => !(d.entry k).isVacant).flatMap (leaving d)

/-- The UNDOCK marker of an announced session (R89). -/
def undockMarker (d : Dev) (r : UndockReason) : List Item :=
  if d.sc.announced then [marker d .undock 0 (r.code.zeroExtend 16)] else []

/-- Configuring has ended: the entry is ACTIVE, announced and no longer a returned one, with NODE_ADDED and its kind where it
was not announced; the cradle's takes the dock from BRINGUP to DOCKED, DOCK before NODE_ADDED, and discovery waits at the
frontier (R7, R50, R61, R87). -/
def CameActive (k : Pos) (s d : Dev) : Prop :=
  d.entry k = { s.entry k with state := .active, returned := false, announced := true } ∧
  (∀ j, j ≠ k → d.entry j = s.entry j) ∧
  ∀ added, added = (if (s.entry k).announced then []
      else [marker s .nodeAdded (posByte k) ((s.entry k).kind.code.zeroExtend 16)]) →
    (k = .p1 → s.sc.dock = .bringup → s.sc.undock = none →
      d.sc = { s.sc with dock := .docked, announced := true } ∧ d.cm.discovery = .waiting ∧
      d.xp.counters.get .dock = s.xp.counters.get .dock + 1 ∧ Staged (marker s .dock 0 0xFFFF :: added) s d) ∧
    (k ≠ .p1 ∨ s.sc.dock ≠ .bringup ∨ s.sc.undock ≠ none →
      d.sc = s.sc ∧ d.cm.discovery = s.cm.discovery ∧ Staged added s d)

/-- The next record of the fault log (R80). -/
def nextRecord (d : Dev) (code : FaultCode) (kind : PlaceKind) (place : Byte) (localized : Bool) (detail : FaultCode) :
    FaultRecord :=
  { number := d.cm.log.total + 1, code := code, placeKind := kind, place := place, localized := localized
    detail := detail, session := d.sc.session, stamp := d.le.stamp }

/-- A message has joined the queue of a position, where the queue takes it (R40). -/
def Joins (k : Pos) (sub : Block) (p : Payload) (s d : Dev) : Prop :=
  Takes s k (Msg.new sub p) → Msg.new sub p ∈ d.queue k

/-- Every entry from a position on is VACANT, and every entry ahead of it as it was. -/
def VacantFrom (k : Pos) (s d : Dev) : Prop :=
  (∀ i, k.toNat ≤ i.toNat → (d.entry i).state = .vacant) ∧ ∀ i, i.toNat < k.toNat → d.entry i = s.entry i

/-- Discovery is COMPLETE, with or without a re-check, and the initial pass over (R49, R62). -/
def completed (recheck : Bool) (c : Cm) : Cm :=
  { c with
    discovery := .complete, recheck := recheck, frontierTimer := 0, initialPass := false, isRetry := false
    offWait := false, codeRead := none }

/-- Locate has begun (R77): every standing fault ended, SEGMENT OFF queued to position 1, entries 2 and behind VACANT. -/
def LocateBegun (cause : LocateCause) (sought : Option SenseCode) (s d : Dev) : Prop :=
  d.cm.discovery = .locating ∧
  d.cm.locate = { s.cm.locate with
    step := .settling, seg := .p2, timer := 0, sought := sought, cause := cause, offDone := false, observed := 0 } ∧
  (∀ k, (d.cm.segs.get k).standing = none) ∧ (d.entry .p1).state = (s.entry .p1).state ∧
  (∀ k, k ≠ .p1 → (d.entry k).state = .vacant) ∧ Joins .p1 .cm (.segment .off .locateOff) s d

/-- A message of a queue is its oldest session message. -/
def OldestSession (q : List Msg) (i : Nat) (m : Msg) : Prop :=
  msgAt q i = some m ∧ m.payload.isSession = true ∧ ∀ j x, j < i → msgAt q j = some x → x.payload.isSession = false

/-- A superframe takes the oldest session message of each queue, in chain order, with four places and one PROBE at most; a
queue is passed over where the places are taken ahead of it, or where its message is a PROBE behind another (R41, step 1). -/
def SessionChoice (d : Dev) (cs : List (Pos × Nat)) : Prop :=
  (∀ c ∈ cs, ∃ m, OldestSession (d.queue c.1) c.2 m) ∧ cs.Pairwise (fun a b => a.1.toNat < b.1.toNat) ∧ cs.length ≤ 4 ∧
  (∀ a ∈ cs, ∀ b ∈ cs, (msgAt (d.queue a.1) a.2).map Msg.payload = some .probe →
    (msgAt (d.queue b.1) b.2).map Msg.payload = some .probe → a = b) ∧
  ∀ k i m, OldestSession (d.queue k) i m → (k, i) ∉ cs →
    (cs.length = 4 ∧ ∀ c ∈ cs, c.1.toNat < k.toNat) ∨
    (m.payload = .probe ∧ ∃ c ∈ cs, c.1.toNat < k.toNat ∧ (msgAt (d.queue c.1) c.2).map Msg.payload = some .probe)

/-- A queue offers its head in step 2: no session message, the queue not frozen, the position in the current schedule (R41,
R43), and not a SUPPLY that waits for the first ANSWER of the cradle after a resume (R160, log 29). -/
def OffersHead (d : Dev) (k : Pos) : Prop :=
  (∃ m, msgAt (d.queue k) 0 = some m ∧ m.payload.isSession = false ∧
    ¬ (k = .p1 ∧ d.pcu.resumed = true ∧ m.isSupply = true)) ∧
  (d.entry k).isAway = false ∧ d.le.current.get k = true

/-- The places from the position after the round-robin pointer up to a position. -/
def roundsAfter (d : Dev) (k : Pos) : Nat := (k.toNat + 5 - d.le.pointer.toNat) % 6

/-- The places left go, round robin from the position after the pointer, to the heads offered by queues that gave nothing in
step 1; one is passed over only where the places are taken ahead of it (R41, step 2). -/
def HeadChoice (d : Dev) (given : List (Pos × Nat)) (hs : List Pos) : Prop :=
  (∀ k ∈ hs, OffersHead d k ∧ ∀ c ∈ given, c.1 ≠ k) ∧ hs.Pairwise (fun a b => roundsAfter d a < roundsAfter d b) ∧
  hs.length + given.length ≤ 4 ∧
  ∀ k, OffersHead d k → (∀ c ∈ given, c.1 ≠ k) → k ∉ hs →
    hs.length + given.length = 4 ∧ ∀ j ∈ hs, roundsAfter d j < roundsAfter d k

/-- At the end of the session items the input session of a node with keys opens anew, RELEASE_ALL staged for keys still
down; that of any other node is left (R123, R127). -/
def InputOpened (k : Pos) (s d : Dev) : Prop :=
  ((s.entry k).caps.keys.isSome = true →
    d.ic.pos.get k = { InputSession.closed with isOpen := true } ∧
    ((s.ic.pos.get k).keyDown ≠ 0 → s.ic.staging.length < 32 →
      marker s .releaseAll (posByte k) 0xFFFF ∈ d.ic.staging)) ∧
  ((s.entry k).caps.keys.isSome = false → d.ic.pos.get k = s.ic.pos.get k)

/-- Outside RELEASING the first apply begins, with generation 0: the SET of its first items that differ is queued, or, with
none, it has ended at once (R113, R118). -/
def FirstApplyBegun (k : Pos) (u d : Dev) : Prop :=
  (u.sc.dock = .releasing → (d.ir.pos.get k).push = (u.ir.pos.get k).push) ∧
  (u.sc.dock ≠ .releasing → u.settingOut k = false →
    (u.differing k ≠ [] → (d.ir.pos.get k).push = some { gen := 0, first := true } ∧
      ((u.queue k).length ≤ 5 → Msg.new .ir (.set ((u.differing k).take 6) 0) ∈ d.queue k)) ∧
    (u.differing k = [] → (d.ir.pos.get k).push = none ∧ (d.ir.pos.get k).appliedGen = 0 ∧
      (d.ir.pos.get k).result = u.appliedResult k))

/-- The contract leaves NONE: it requests the pick, with mismatch set where its power is below the minimum, and SUPPLY for it
is queued; with no pick it is BASE (R154, R155, R159). -/
def LeftNone (s d : Dev) : Prop :=
  d.pcu.owed = false ∧
  (∀ n x, s.pick = some (n, x) → d.pcu.contract = .requested ∧ d.pcu.offer = some (BitVec.ofNat 8 n) ∧
    d.pcu.mismatch = (!s.pcu.policy.met x) ∧
    ((s.queue .p1).length ≤ 6 →
      Msg.new .pcu (.supply (BitVec.ofNat 8 n) x.cur (!s.pcu.policy.met x) false) ∈ d.queue .p1)) ∧
  (s.pick = none → d.pcu.contract = .base ∧ d.pcu.offer = none ∧ d.pcu.mismatch = false)

/-- From the part `a` to the part `d` exactly a run of bytes has been written at an offset of the window (R176). -/
def Wrote (a d : Dev) (offset : Nat) (bs : List Byte) : Prop :=
  (∀ (i : Nat) (h : i < bs.length), Mem.read d.mem (a.windowAddr offset + i) = some bs[i]) ∧
  ∀ x, x < a.windowAddr offset ∨ a.windowAddr offset + bs.length ≤ x → Mem.read d.mem x = Mem.read a.mem x

/-- The extra draws of the levels granted, in mW (R163). -/
def drawn (d : Dev) : Nat :=
  (Pos.all.map fun k =>
    ((d.entry k).caps.power.map fun p =>
      (p.draw (d.pcu.grantDisplay.get k).toNat).getD 0 + (p.draw (d.pcu.grantKey.get k).toNat).getD 0).getD 0).sum

/-- The extra draw of the level granted to a position, in mW (R163). -/
def drawAt (d : Dev) (grants : Per6 Byte) (k : Pos) : Nat :=
  ((d.entry k).caps.power.map fun p => (p.draw (grants.get k).toNat).getD 0).getD 0

/-- The extra draws of the levels granted to the positions before one, in mW (R163). -/
def drawnBefore (d : Dev) (grants : Per6 Byte) (k : Pos) : Nat :=
  ((Pos.all.filter fun j => decide (j.toNat < k.toNat)).map (drawAt d grants)).sum

/-- A level is the highest one, from 0 up to the requested one, whose extra draw fits (R163). -/
def HighestFit (p : PowerCap) (requested level room : Nat) : Prop :=
  level ≤ requested ∧ (∃ x, p.draw level = some x ∧ x ≤ room) ∧
    ∀ l x, level < l → l ≤ requested → p.draw l = some x → room < x

end Sys2Proof.Safety
end

