-- ==== Sys2Proof/Certificates/Slice0/Obligations.lean ====
section
/-! DEFINITION. The statements for the provers: for every command that it answers a next state and which, the frame, the bounds every step keeps, reset. -/
section Statements

open Sys2Proof Sys2Proof.Machine Sys2Proof.Safety

/-! ### The machine -/

/-- A step takes the command at the front of the queue and runs it on the rest. -/
def Obligations.StepRunsFrontCommand : Prop :=
  ∀ (c : Instr) (rest : List Instr) (s : State),
    step { s with pending := c :: rest } = exec c { s with pending := rest }

/-- With no command waiting the part idles (log 4). -/
def Obligations.EmptyQueueIdles : Prop := ∀ s : State, s.pending = [] → step s = .next s

/-- Every command answers a next state in every state, and leaves the queue of commands. That a command whose occasion does
not hold answers a next state too is the model's choice (log 1). -/
def Obligations.EveryCommandAnswersNext : Prop :=
  ∀ (c : Instr) (s : State), ∃ d, exec c s = .next { s with dev := d }

/-- The bounds of queues, staging, fault log, fixed tables and host memory hold at reset. -/
def Obligations.BoundsHoldAtReset : Prop := Inv State.reset.dev

/-- Every step keeps the bounds: queues of 8 with one place for session messages, staging of 32, a log of 16 records and 16
slots, 64 update records, host memory in canonical form (R40, R128, R81, R138). -/
def Obligations.BoundsKeptByStep : Prop :=
  ∀ s t : State, Inv s.dev → step s = .next t → Inv t.dev

/-- A step inside a superframe leaves host memory, the PCIe configuration, the stamp, the current schedule and its
generation, the part state, the latched base, CONTROL's fields and WINDOW_LOW and WINDOW_HIGH (R22, R44, R173). STATUS is no
such register: its dock state, WINDOW_STALL and NOTICE_PENDING may change. -/
def Obligations.StepsInsideASuperframe : Prop :=
  ∀ (c : Instr) (s : State), actsOutside c = false →
    ∃ d, exec c s = .next { s with dev := d } ∧ Inside s.dev d

/-- Only the grant of an access and the six completing writes change a byte of host memory (R176, R177). -/
def Obligations.OnlyWritesChangeMemory : Prop :=
  ∀ (c : Instr) (s : State), writesMemory c = false →
    ∃ d, exec c s = .next { s with dev := d } ∧ ∀ a, Mem.read d.mem a = Mem.read s.dev.mem a

/-! ### Reset and registers (R173, R175, R183) -/

/-- R183: where the registers hold their fields. PART_ID's three fields, CONTROL's and STATUS's bits as a read returns
them, CONTROL.RESET as the bit a write acts on, any value of NUDGE, and the halves of the base that STARTING latches. -/
def Obligations.RegisterFields : Prop :=
  (∀ d : Dev,
    (d.readReg 0x000).extractLsb' 16 16 = 0x7260#16 ∧ (d.readReg 0x000).extractLsb' 8 8 = 0x01#8 ∧
    (d.readReg 0x000).extractLsb' 0 8 = 0x00#8 ∧
    (d.readReg 0x004).getLsbD 0 = d.xp.enable ∧ (d.readReg 0x004).getLsbD 2 = d.xp.noticeOn ∧
    (d.readReg 0x004).getLsbD 3 = d.xp.noticeMask ∧
    (d.readReg 0x008).extractLsb' 0 2 = BitVec.ofNat 2 d.xp.part.code ∧
    (d.readReg 0x008).getLsbD 4 = d.xp.windowBad ∧ (d.readReg 0x008).getLsbD 5 = d.xp.windowStall ∧
    (d.readReg 0x008).getLsbD 6 = d.xp.noticePending ∧
    (d.readReg 0x008).extractLsb' 8 3 = BitVec.ofNat 3 d.sc.dock.code) ∧
  (∀ (s : State) (v : W32), v.getLsbD 1 = true → exec (.registerWrite 0x004 v) s = exec .reset s) ∧
  (∀ (s : State) (v : W32), v.getLsbD 1 = false →
    ∃ d, exec (.registerWrite 0x004 v) s = .next { s with dev := d } ∧ d.xp.noticeOn = v.getLsbD 2 ∧
      d.xp.noticeMask = v.getLsbD 3 ∧ (v.getLsbD 0 = false → d.xp.enable = false) ∧
      (v.getLsbD 0 = true → d.xp.windowBad = true ∨ d.xp.enable = true)) ∧
  (∀ (s : State) (v w : W32), exec (.nudge v) s = exec (.nudge w) s ∧ exec (.registerWrite 0x00C v) s = exec (.nudge w) s) ∧
  (∀ (s t : State) (b : W64), exec .enable s = .next t → s.dev.xp.part = .disabled → t.dev.xp.base = some b →
    b.extractLsb' 0 32 = s.dev.readReg 0x010 ∧ b.extractLsb' 32 32 = s.dev.readReg 0x014)

/-- RESET: every block at its reset value, CONTROL and the window registers 0; host memory, the PCIe configuration and
the three serials last taken are kept (R175, R49, R82, R103). The count of free choices is the model's own (log 10); a message
still waiting for its counter words is not sent (log 100), and the stamp of the global applied section is 0 (log 117).
POWER_ON_RESET: as RESET, and the PCIe configuration at its power-up values (R175; those values are PRESUMED, log
5). -/
def Obligations.ResetResults : Prop :=
  (∀ s : State, exec .reset s = .next { s with dev := { Dev.reset with
      mem := s.dev.mem, pcie := s.dev.pcie, free := s.dev.free
      cm := { Cm.reset with chainSerial := s.dev.cm.chainSerial, locateSerial := s.dev.cm.locateSerial }
      sc := { Sc.reset with releaseSerial := s.dev.sc.releaseSerial } } }) ∧
  (∀ s : State, exec .powerOnReset s = .next { s with dev := { Dev.reset with
      mem := s.dev.mem, free := s.dev.free
      cm := { Cm.reset with chainSerial := s.dev.cm.chainSerial, locateSerial := s.dev.cm.locateSerial }
      sc := { Sc.reset with releaseSerial := s.dev.sc.releaseSerial } } })

/-- NOTICE_ON takes the value and 0 clears NOTICE_PENDING; NOTICE_MASK takes the value; MSI_ENABLE gives the configuration its
MSI enable, and its bus-master enable (log 8); nothing else changes (R173, R180). REGISTER_WRITE replaces WINDOW_LOW or
WINDOW_HIGH; a write of an offset that names no writable register changes nothing (R173). NUDGE is noted for the next
superframe in RUNNING and STOPPING, and has no effect in DISABLED and STARTING (R173). -/
def Obligations.RegisterCommands : Prop :=
  (∀ (on : Bool) (s : State),
      exec (.noticeOn on) s = .next { s with dev := { s.dev with
        xp := { s.dev.xp with noticeOn := on, noticePending := s.dev.xp.noticePending && on } } } ∧
      exec (.noticeMask on) s = .next { s with dev := { s.dev with xp := { s.dev.xp with noticeMask := on } } } ∧
      ∀ c : FunctionSetup, exec (.msiEnable c) s = .next { s with dev := { s.dev with
        pcie := { s.dev.pcie with msiEnable := c.msi, busMaster := c.busMaster } } }) ∧
  (∀ (s : State) (v : W32),
      exec (.registerWrite 0x010 v) s = .next { s with dev := { s.dev with xp := { s.dev.xp with windowLow := v } } } ∧
      exec (.registerWrite 0x014 v) s = .next { s with dev := { s.dev with xp := { s.dev.xp with windowHigh := v } } } ∧
      ∀ off : BitVec 12, off ≠ 0x004 → off ≠ 0x00C → off ≠ 0x010 → off ≠ 0x014 → exec (.registerWrite off v) s = .next s) ∧
  (∀ (s : State) (v : W32),
      ((s.dev.xp.part = .running ∨ s.dev.xp.part = .stopping) →
        exec (.nudge v) s = .next { s with dev := { s.dev with xp := { s.dev.xp with nudged := true } } }) ∧
      ((s.dev.xp.part = .disabled ∨ s.dev.xp.part = .starting) → exec (.nudge v) s = .next s))

/-! ### Part states (R174, R134) -/

/-- ENABLE in DISABLED enters STARTING: WINDOW_BAD and WINDOW_STALL clear, the base latched, the read of the layout version
offered; a base that is 0 or has a bit of 15-0 set ends in DISABLED with WINDOW_BAD and ENABLE 0 (R174). In any other part
state ENABLE is held and nothing else changes. -/
def Obligations.EnableResult : Prop :=
  ∀ s : State,
    (s.dev.xp.part ≠ .disabled →
      exec .enable s = .next { s with dev := { s.dev with xp := { s.dev.xp with enable := true } } }) ∧
    (s.dev.xp.part = .disabled → ∀ b : W64, b = s.dev.xp.windowHigh ++ s.dev.xp.windowLow →
      (b ≠ 0 ∧ b.extractLsb' 0 16 = 0 →
        exec .enable s = .next { s with dev := { s.dev with
          pub := Pub.reset
          xp := { s.dev.xp with
            enable := true, part := .starting, windowBad := false, windowStall := false, base := some b
            stallArea := .none, stallAreaOwed := false, stallAreaLater := false, layoutOffered := true
            initial := none, offered := PerRequester.const none, engine := none } } }) ∧
      (b = 0 ∨ b.extractLsb' 0 16 ≠ 0 →
        ∃ d, exec .enable s = .next { s with dev := d } ∧ d.xp.part = .disabled ∧ d.xp.windowBad = true ∧
          d.xp.windowStall = false ∧ d.xp.enable = false ∧ d.xp.base = none ∧ d.mem = s.dev.mem))

/-- LAYOUT_VERSION_READ: 0001H begins the initial writes; any other value, or a failure, ends in DISABLED with
WINDOW_BAD and ENABLE 0 (R174). STARTING_COMPLETE: when every initial write has been issued the part enters RUNNING,
with the stamp at 0 and a scan due in that superframe (R22, R174, R178). -/
def Obligations.StartingResults : Prop :=
  (∀ (s : State) (v : Option W16), s.dev.xp.part = .starting → s.dev.xp.engine = some (.layout false) →
      (v = some 1 → exec (.layoutVersionRead v) s =
        .next { s with dev := { s.dev with xp := { s.dev.xp with engine := none, initial := some 0 } } }) ∧
      (v ≠ some 1 → exec (.layoutVersionRead v) s =
        .next { s with dev := { s.dev with xp := { s.dev.xp with
          part := .disabled, windowBad := true, enable := false, layoutOffered := false, initial := none, engine := none
          base := none } } })) ∧
  (∀ s : State, s.dev.xp.part = .starting → s.dev.xp.initial = some initialWrites →
      exec .startingComplete s = .next { s with dev := Dev.offerAll { s.dev with
        xp := { s.dev.xp with part := .running, initial := none, scanDue := true, nudged := false }
        le := { s.dev.le with stamp := 0 } } })

/-- DISABLE: ENABLE takes 0. DISABLED stays; STARTING ends in DISABLED, with no further write; RUNNING enters STOPPING, where
with no session there is nothing to release and the end of the sequence is reported (R174, R97). -/
def Obligations.DisableResult : Prop :=
  ∀ s : State, ∃ d, exec .disable s = .next { s with dev := d } ∧ d.xp.enable = false ∧ d.mem = s.dev.mem ∧
    (s.dev.xp.part = .disabled → d.xp.part = .disabled) ∧
    (s.dev.xp.part = .starting → d.xp.part = .disabled ∧ d.xp.initial = none ∧ d.xp.engine = none) ∧
    (s.dev.xp.part = .running ∨ s.dev.xp.part = .stopping → d.xp.part = .stopping) ∧
    (s.dev.xp.part = .running → s.dev.sc.undock = none →
      (s.dev.sc.dock = .undocked ∨ s.dev.sc.dock = .detecting ∨ s.dev.sc.dock = .released →
        d.sc = { s.dev.sc with endReport := true }) ∧
      (s.dev.sc.dock = .bringup ∨ s.dev.sc.dock = .docked ∨ s.dev.sc.dock = .holding → d.sc.dock = .releasing))

/-- SEQUENCE_ENDED begins the final drain: its timer at 0 and a read of the taken count, unless one has fallen due in this
superframe (R134, R178). FINAL_DRAIN_END: the part is
DISABLED; CONTROL, the window registers, WINDOW_BAD, WINDOW_STALL, the notice counters, the session number, the three
serials, the PCIe configuration and host memory are kept, every other thing is at its reset value (R174, R103, R134; the
counts of messages and of free choices are the model's own, log 27 and 10; that a message still waiting for its counter words
is not sent is the model's choice, log 100). An ENABLE written 1 during STOPPING acts then, as ENABLE does in DISABLED (R174;
in the same step, log 40). -/
def Obligations.StoppingResults : Prop :=
  (∀ s : State, s.dev.xp.part = .stopping → s.dev.sc.endReport = true →
      exec .sequenceEnded s = .next { s with dev := Dev.offerAll { s.dev with
        sc := { s.dev.sc with endReport := false }
        ic := { s.dev.ic with drain := some 0, takenDue := s.dev.ic.takenDue || !s.dev.ic.asked, asked := true } } }) ∧
  (∀ (s : State) (n : Nat) (u : State), s.dev.xp.part = .stopping → s.dev.ic.drain = some n →
      (100 ≤ n ∨ (s.dev.ic.staging = [] ∧ s.dev.ic.written = s.dev.ic.writeCount)) →
      u = { s with dev := { Dev.reset with
        mem := s.dev.mem, pcie := s.dev.pcie, free := s.dev.free
        cm := { Cm.reset with chainSerial := s.dev.cm.chainSerial, locateSerial := s.dev.cm.locateSerial }
        sc := { Sc.reset with releaseSerial := s.dev.sc.releaseSerial, session := s.dev.sc.session }
        xp := { Xp.reset with
          enable := s.dev.xp.enable, noticeOn := s.dev.xp.noticeOn, noticeMask := s.dev.xp.noticeMask
          windowLow := s.dev.xp.windowLow, windowHigh := s.dev.xp.windowHigh, windowBad := s.dev.xp.windowBad
          windowStall := s.dev.xp.windowStall, counters := s.dev.xp.counters, msiSent := s.dev.xp.msiSent } } } →
      (s.dev.xp.enable = false → exec .finalDrainEnd s = .next u) ∧
      (s.dev.xp.enable = true → exec .finalDrainEnd s = exec .enable u))

/-! ### The link (chapter 2) -/

/-- SUPERFRAME in RUNNING and STOPPING, in every such state: the stamp advances by 1, the next schedule becomes the
current one and stays the next one, and where it differs from the one before the generation advances by 1; host memory
and the part state are left (R22, R44). -/
def Obligations.SuperframeStampAndSchedule : Prop :=
  ∀ s : State, s.dev.xp.part = .running ∨ s.dev.xp.part = .stopping →
    ∃ d, exec .superframe s = .next { s with dev := d } ∧ d.le.stamp = s.dev.le.stamp + 1 ∧
      d.le.current = s.dev.le.next ∧ d.le.next = s.dev.le.next ∧
      d.le.gen = (if s.dev.le.next = s.dev.le.current then s.dev.le.gen else s.dev.le.gen + 1) ∧
      d.xp.part = s.dev.xp.part ∧ d.mem = s.dev.mem

/-- After a SUPERFRAME with the link in use the wire holds one SYNC, then the CTRL bytes of the 0 to 4 messages the
arbiter chose, session messages before the heads of the round robin, each with its tag and payload (R25, R185): the
oldest session message of each queue, in chain order, with one PROBE at most; then, round robin from the position after
the pointer, the heads that are no session message, of queues not frozen whose position is in the current schedule, but
for a SUPPLY that waits for the first ANSWER after a resume (R41; R160, log 29); the pointer moves to the last of those
(R41), then the TILE bytes of the 0 to 12 tiles at the head of the ready list (R25, R145). The SYNC has the low half of
the stamp, the schedule generation, the answer list, the two counts, the tile target (the target of the posting; FFH
without tiles, log 50), the hold flag exactly in HOLDING, and each position's acknowledgment. The answer list, whose
windows are to come, is the current schedule with each position to which a RESUME or RELEASE goes in this superframe
(R24); a probe answer window is to come for the position of a PROBE that goes (R26). With the link quiet nothing is sent
and no window is to come (R22, R24, R126). -/
def Obligations.SuperframeTraffic : Prop :=
  ∀ s t : State, s.dev.xp.part = .running ∨ s.dev.xp.part = .stopping → exec .superframe s = .next t →
    (t.dev.linkInUse = false →
      t.dev.le.pointer = s.dev.le.pointer ∧ t.dev.le.wire = [] ∧ t.dev.le.probeWindow = none ∧ ∀ k, t.dev.le.windows.get k = false) ∧
    (t.dev.linkInUse = true → ∀ (u v : Dev) (ctrls : List (Pos × Nat)) (tiles : List Tile),
      u = s.dev.newSuperframe →
      ctrls = u.chooseSession ++ (u.chooseHeads u.chooseSession).map (fun k => (k, 0)) →
      v = ctrls.foldl (fun d c => d.sendMessage c.1 c.2) u → tiles = v.tilesOut →
      SessionChoice u u.chooseSession ∧ HeadChoice u u.chooseSession (u.chooseHeads u.chooseSession) ∧
      t.dev.le.pointer = (u.chooseHeads u.chooseSession).getLast?.getD s.dev.le.pointer ∧
      ctrls.length ≤ 4 ∧ tiles.length ≤ 12 ∧
      (∀ k, t.dev.le.windows.get k = (t.dev.le.current.get k || ctrls.any fun c => c.1 == k &&
        (msgAt (v.queue k) c.2).any fun m => m.payload == .release || m.payload.isResume)) ∧
      t.dev.le.probeWindow =
        (ctrls.find? fun c => (msgAt (v.queue c.1) c.2).any fun m => m.payload == .probe).map (fun c => c.1) ∧
      (tiles = [] → t.dev.le.wire =
        syncBytes t.dev.le.stamp t.dev.le.gen t.dev.le.windows ctrls.length 0 0xFF (t.dev.sc.dock == .holding)
          (Per6.ofFn t.dev.ackOf) :: ctrls.map v.ctrlOf) ∧
      (∀ p, v.dtu.posting = some p → tiles ≠ [] → t.dev.le.wire =
        syncBytes t.dev.le.stamp t.dev.le.gen t.dev.le.windows ctrls.length tiles.length (posByte p.target)
          (t.dev.sc.dock == .holding) (Per6.ofFn t.dev.ackOf) :: ctrls.map v.ctrlOf ++ tiles.map (v.tileOf p)))

/-- In DISABLED a superframe with ENABLE 1 enters STARTING as ENABLE does; with ENABLE 0, and in STARTING, a superframe
changes nothing (R174; the model's choice for the stamp, log 40). -/
def Obligations.SuperframeOutsideRunning : Prop :=
  ∀ s : State,
    (s.dev.xp.part = .disabled → s.dev.xp.enable = true → exec .superframe s = exec .enable s) ∧
    (s.dev.xp.part = .disabled → s.dev.xp.enable = false → exec .superframe s = .next s) ∧
    (s.dev.xp.part = .starting → exec .superframe s = .next s)

/-- Notices at the boundary (R180). SUPERFRAME in RUNNING and STOPPING takes the notice request and NOTICE_PENDING together, as
they stand at the end of the old superframe: with either set, NOTICE_ON 1, MSI enabled and NOTICE_MASK 0, one message is due
and both clear; with the request set, NOTICE_ON 1 and MSI disabled or NOTICE_MASK 1, NOTICE_PENDING sets and the request
clears; with NOTICE_ON 0 the request clears; with neither set nothing changes. The message goes out at once where no counter
word waits to be written or a window stall stands, and otherwise with the write of the last of those words, whatever NOTICE_ON,
NOTICE_MASK and MSI enable are then (the model's choice, log 110). The count of
messages is the model's own (log 27). -/
def Obligations.NoticeBoundary : Prop :=
  (∀ s t : State, s.dev.xp.part = .running ∨ s.dev.xp.part = .stopping → exec .superframe s = .next t →
    ∀ (u : Dev) (owed : Bool), u = s.dev.endSuperframe → owed = Cause.all.any (fun c => u.noticeWords.get c) →
      t.dev.xp.noticeRequest = false ∧
      ((u.xp.noticeRequest = true ∨ u.xp.noticePending = true) → u.xp.noticeOn = true → u.pcie.msiEnable = true →
        u.xp.noticeMask = false → t.dev.xp.noticePending = false ∧
        (owed = false ∨ u.xp.windowStall = true → t.dev.xp.msiSent = u.xp.msiSent + 1 ∧ t.dev.xp.msiWait = none) ∧
        (owed = true → u.xp.windowStall = false →
          t.dev.xp.msiSent = u.xp.msiSent ∧ t.dev.xp.msiWait = some u.noticeWords)) ∧
      (u.xp.noticeRequest = true → u.xp.noticeOn = true → (u.pcie.msiEnable = false ∨ u.xp.noticeMask = true) →
        t.dev.xp.noticePending = true ∧ t.dev.xp.msiSent = u.xp.msiSent ∧ t.dev.xp.msiWait = u.xp.msiWait) ∧
      (u.xp.noticeRequest = true → u.xp.noticeOn = false →
        t.dev.xp.noticePending = u.xp.noticePending ∧ t.dev.xp.msiSent = u.xp.msiSent ∧ t.dev.xp.msiWait = u.xp.msiWait) ∧
      (u.xp.noticeRequest = false → u.xp.noticePending = true →
        (u.xp.noticeOn = false ∨ u.pcie.msiEnable = false ∨ u.xp.noticeMask = true) →
        t.dev.xp.noticePending = true ∧ t.dev.xp.msiSent = u.xp.msiSent ∧ t.dev.xp.msiWait = u.xp.msiWait) ∧
      (u.xp.noticeRequest = false → u.xp.noticePending = false →
        t.dev.xp.noticePending = false ∧ t.dev.xp.msiSent = u.xp.msiSent ∧ t.dev.xp.msiWait = u.xp.msiWait)) ∧
  ∀ (s : State) (r : Requester) (c : Cause) (w : Per9 Bool), s.dev.nextGrant = some (r, .header (.counter c)) →
    s.dev.pcie.busMaster = true → s.dev.xp.windowStall = false → s.dev.xp.msiWait = some w →
    ∃ d, exec .windowAccessGrant s = .next { s with dev := d } ∧
      ((∀ b, b ≠ c → w.get b = false) → d.xp.msiSent = s.dev.xp.msiSent + 1 ∧ d.xp.msiWait = none) ∧
      ((∃ b, b ≠ c ∧ w.get b = true) → d.xp.msiSent = s.dev.xp.msiSent ∧ d.xp.msiWait = some (w.set c false))

/-- What else a SUPERFRAME in RUNNING and STOPPING moves. A scan falls due at a stamp that is a multiple of 8, after a
nudge and after a stall has cleared, and none while a stall stands (R178); the stall retry timer advances while one
stands, and a nudge makes the retry fall due (R179); an error window ends every 1024 superframes (R47). Timers: of the
dock state (R87, R91, R92, R101, R98), of discovery, frontier and locate (R52, R62, R70, R77), of the resume walk, 0
where the lowest LOST entry is another one and where RESUME is queued at once (R14), of pending attentions (R119), of
the transition and the brace (R157, R161), of the final drain (R134), of a posting that waits on its node (R147). The
interruption count advances in a superframe whose scheduled windows all passed without a good ANSWER, is reported at
4, and is 0 under an empty schedule (R46). The model's own: a window nothing came in is closed at the boundary (log
3), the progress timer stands behind the tiles of the superframe (log 22), a timer is held at the value its step asks
for and what is due stays so until its step is taken (log 24), the step timer waits while an entry is LOST (log 37).
-/
def Obligations.SuperframeTimers : Prop :=
  ∀ s t : State, s.dev.xp.part = .running ∨ s.dev.xp.part = .stopping → exec .superframe s = .next t →
    (t.dev.xp.scanDue = (!s.dev.xp.windowStall &&
        (s.dev.xp.scanDue || (s.dev.le.stamp + 1).toNat % 8 == 0 || s.dev.xp.nudged || s.dev.xp.scanNext)) ∧
      t.dev.xp.nudged = false ∧ t.dev.xp.scanNext = false ∧
      t.dev.xp.retryDue = (s.dev.xp.retryDue || (s.dev.xp.windowStall && s.dev.xp.nudged)) ∧
      t.dev.xp.retryTimer = (if s.dev.xp.windowStall then s.dev.xp.retryTimer + 1 else s.dev.xp.retryTimer) ∧
      t.dev.le.windowEnded = (s.dev.le.windowEnded || (s.dev.le.stamp + 1).toNat % 1024 == 0)) ∧
    t.dev.sc = { s.dev.sc with
      sampled := false
      bringupTimer := if s.dev.sc.dock = .bringup then min 500 (s.dev.sc.bringupTimer + 1) else s.dev.sc.bringupTimer
      probeTimer := if s.dev.sc.dock = .bringup then
          (if 10 ≤ s.dev.sc.probeTimer then 1 else s.dev.sc.probeTimer + 1) else s.dev.sc.probeTimer
      holdTimer := if s.dev.sc.dock = .holding then s.dev.sc.holdTimer + 1 else s.dev.sc.holdTimer
      tickTimer := if s.dev.sc.dock = .holding then min 10 (s.dev.sc.tickTimer + 1) else s.dev.sc.tickTimer
      releasedTimer := if s.dev.sc.dock = .released then min 10000 (s.dev.sc.releasedTimer + 1) else s.dev.sc.releasedTimer
      sequence := s.dev.sc.sequence.map fun q =>
        { q with timer := if q.step = .drain then min 100 (q.timer + 1) else q.timer } } ∧
    (t.dev.cm.stepTimer = (if s.dev.discoveryRuns = true ∧ s.dev.cm.discovery.isStep = true then
        min 50 (s.dev.cm.stepTimer + 1) else s.dev.cm.stepTimer) ∧
      t.dev.cm.frontierTimer = (if s.dev.discoveryRuns = true ∧ s.dev.cm.frontierRuns = true then
        min 2000 (s.dev.cm.frontierTimer + 1) else s.dev.cm.frontierTimer) ∧
      t.dev.cm.locate.timer = (if s.dev.locateRuns = true then min 100 (s.dev.cm.locate.timer + 1)
        else s.dev.cm.locate.timer)) ∧
    (∀ target, target = s.dev.newSuperframe.traffic.walkTarget →
      t.dev.cm.resumeFor = s.dev.lowestLost ∧
      t.dev.cm.resumeTimer = (if (s.dev.cm.resumeNow = true ∧ target.isSome = true) ∨ s.dev.cm.resumeFor ≠ s.dev.lowestLost
        then 0 else if s.dev.anyLost = true then min 100 (s.dev.cm.resumeTimer + 1) else s.dev.cm.resumeTimer)) ∧
    (∀ k, (t.dev.ir.pos.get k).attention =
      (s.dev.ir.pos.get k).attention.map fun a => { a with timer := min 1000 (a.timer + 1) }) ∧
    (t.dev.pcu.transTimer = (if s.dev.pcu.contract = .transition ∧ (s.dev.entry .p1).state = .active then
        min 500 (s.dev.pcu.transTimer + 1) else s.dev.pcu.transTimer) ∧
      t.dev.pcu.clearCount = (if s.dev.pcu.braced = true then
        (if s.dev.pcu.live.dip = true ∨ s.dev.slu.crank = true then 0 else min 200 (s.dev.pcu.clearCount + 1))
        else s.dev.pcu.clearCount)) ∧
    t.dev.ic.drain = s.dev.ic.drain.map (fun n => min 100 (n + 1)) ∧
    (∀ p, s.dev.dtu.posting = some p → ∃ q, t.dev.dtu.posting = some q ∧
      q.timer = (if (q.state = .gate ∨ (q.state = .sending ∧ q.received < q.sendPoint) ∨ q.state = .committing) ∧
          (t.dev.entry q.target).state = .active then min 64 (p.timer + 1) else p.timer)) ∧
    ∀ n, n = (if s.dev.linkInUse = true ∧ s.dev.sc.dock ≠ .holding ∧ s.dev.le.answered = false ∧
          Pos.all.any (fun k => s.dev.le.current.get k && s.dev.le.windows.get k) = true then s.dev.le.interruption + 1
        else s.dev.le.interruption) →
      t.dev.le.interruption = (if anyOf t.dev.le.current = true then n else 0) ∧
      (t.dev.le.interruptionDue = true ↔ s.dev.le.interruptionDue = true ∨ (n ≠ s.dev.le.interruption ∧ n = 4))

/-- QUEUE_REOFFER, of a message that is offered as it was: the oldest one found full in an earlier superframe is offered again,
and where the queue now takes it, it joins the tail (R40). That one QUEUE_REOFFER takes one offer, the oldest, is the
model's choice (log 32); a push's SET, a SUPPLY and a STATUS_BLOCK are built anew when offered and are not stated here. -/
def Obligations.QueueReofferResult : Prop :=
  ∀ (s : State) (o : QueueOffer) (rest : List QueueOffer) (m : Msg),
    s.dev.le.offers = o :: rest → o.stamp ≠ s.dev.le.stamp → o.what = .message m → Takes s.dev o.pos m →
    ∃ d, exec .queueReoffer s = .next { s with dev := d } ∧
      Settled { s.dev with le := { s.dev.le with
        offers := rest, queues := s.dev.le.queues.set o.pos (s.dev.queue o.pos ++ [m]) } } d

/-- ANSWER of a window still to come, with nothing received: the window has passed; outside HOLDING a position of the
current schedule counts a miss, saturating, and its sixteenth miss sends the loss report (R45). With no message in
flight to the position its queue is left. ANSWER of a scheduled position that fails CRC or structure, or names another
position: the window error count and the cumulative count advance by 1, saturating, and the miss counts as for an absent
one (R23, R45, R47, R186); so it does for a frame with a good CRC and another type than ANSWER, which is the model's choice
(log 90). A
message in flight to a position whose ANSWER is absent or failing has had an attempt and stays; at its third it leaves
with NO_REPLY (R42). In the probe answer window a PROBE in flight leaves at once: with DONE and the reply's payload,
or with NO_REPLY where no valid reply came (R26, R30, R42). -/
def Obligations.AnswerMissedOrFailing : Prop :=
  (∀ (s : State) (k : Pos), s.dev.le.windows.get k = true → s.dev.inFlight k false = none →
      ∃ (d : Dev) (l : Le), exec (.answer (.answer k) none) s = .next { s with dev := d } ∧
        Settled { s.dev with le := l } d ∧
        l.windows = s.dev.le.windows.set k false ∧ l.queues = s.dev.le.queues ∧ l.results = s.dev.le.results ∧
        l.winErr = s.dev.le.winErr ∧ l.cumErr = s.dev.le.cumErr ∧
        (s.dev.le.current.get k = true → s.dev.sc.dock ≠ .holding →
          l.miss = s.dev.le.miss.set k (satInc (s.dev.le.miss.get k)) ∧
          (s.dev.le.miss.get k = 15 → l.lossDue.get k = true) ∧
          (s.dev.le.miss.get k ≠ 15 → l.lossDue = s.dev.le.lossDue)) ∧
        (s.dev.le.current.get k = false ∨ s.dev.sc.dock = .holding → l.miss = s.dev.le.miss ∧ l.lossDue = s.dev.le.lossDue)) ∧
  (∀ (s : State) (k : Pos) (bs : List Byte), s.dev.le.windows.get k = true → s.dev.le.current.get k = true →
      s.dev.sc.dock ≠ .holding → s.dev.goodAnswer k (some bs) = none → s.dev.inFlight k false = none →
      ∃ d, exec (.answer (.answer k) (some bs)) s = .next { s with dev := d } ∧
        d.le.winErr = s.dev.le.winErr.set k (satInc (s.dev.le.winErr.get k)) ∧
        d.le.cumErr = s.dev.le.cumErr.set k (satInc (s.dev.le.cumErr.get k)) ∧
        d.le.miss = s.dev.le.miss.set k (satInc (s.dev.le.miss.get k)) ∧ d.cm.table = s.dev.cm.table ∧ d.sc = s.dev.sc ∧
        d.ic = s.dev.ic ∧ d.dtu = s.dev.dtu ∧ d.slu = s.dev.slu ∧ d.mem = s.dev.mem) ∧
  (∀ (s : State) (k : Pos) (m : Msg) (frame : Option (List Byte)), s.dev.le.windows.get k = true →
      s.dev.inFlight k false = some m → m.withdrawn = false → s.dev.goodAnswer k frame = none →
      ∃ d, exec (.answer (.answer k) frame) s = .next { s with dev := d } ∧ d.cm.table = s.dev.cm.table ∧ d.sc = s.dev.sc ∧
        d.mem = s.dev.mem ∧
        (3 ≤ m.attempts + 1 → d.le.results = s.dev.le.results ++ [m.result k .noReply []] ∧
          d.le.queues = s.dev.le.queues.set k ((s.dev.queue k).filter fun x => !(x.inFlight && x.payload != .probe))) ∧
        (m.attempts + 1 < 3 → d.le.results = s.dev.le.results ∧
          d.le.queues = s.dev.le.queues.set k ((s.dev.queue k).map fun x =>
            if x.inFlight && x.payload != .probe then { x with attempts := x.attempts + 1, inFlight := false } else x))) ∧
  (∀ (s : State) (k : Pos) (m : Msg) (frame : Option (List Byte)) (l : Le), s.dev.le.probeWindow = some k →
      s.dev.inFlight k true = some m → m.withdrawn = false →
      l = { s.dev.le with
        probeWindow := none
        queues := s.dev.le.queues.set k ((s.dev.queue k).filter fun x => !(x.inFlight && x.payload == .probe)) } →
      (∀ a, goodProbeAnswer k frame = some a → a.replyTo m = some .done →
        ∃ d, exec (.answer .probe frame) s = .next { s with dev := d } ∧
          Settled { s.dev with le := { l with results := s.dev.le.results ++ [m.result k .done a.payload] } } d) ∧
      ((goodProbeAnswer k frame).bind (fun a => a.replyTo m) = none →
        ∃ d, exec (.answer .probe frame) s = .next { s with dev := d } ∧
          Settled { s.dev with le := { l with results := s.dev.le.results ++ [m.result k .noReply []] } } d))

/-- ANSWER whose CRC is good, in the window of a position. Input (R124, R125, R128): of an open session, one entry
with the sequence after the last accepted one, the lost count unmoved, joins staging where 8 places are free, with
this superframe's stamp, and is the last accepted one, also at an entry HELD or LOST (R26); with another sequence,
fewer places or no open session it is not taken. A lost count that moved stages a LOSS marker with the difference
where a place is free (R125); buffer empty is noted for the release sequence (R98). Reply (R42), at an entry HELD or
LOST, and at one in use that is neither cradle nor display and reports no other sense code than CLEAN: DONE, REFUSED
or MISMATCH to the message in flight takes it out of its queue and returns its result; BUSY keeps it there with the
stamp of its first BUSY, and ends it BUSY_TIMEOUT 64 superframes later; without a valid reply an attempt is counted,
and the third ends it NO_REPLY. Of entry 1, the cradle: the supply fields replace the live state, a dip warning
braces, each sampled line takes its level (R153, R161, R170). Of a display: the last committed tag is kept, an empty
staging opens the gate, and a received count up to the send point is taken (R143, R145). The sense code, discovery
COMPLETE: it is kept as the last one; off the watch of a DOCKED chain that is all, which the model chooses with an
undock pending (log 54) and for a segment in DIAG that nobody observes (log 76), R68 naming OFF and FAULT there; so it
is, on the watch too, for an undefined code (R186; clean run: log 118); on the watch CLEAN and NO_LOAD return the
confirmation count to 0, and a partial or concealed code short of its fourth report advances it (R68). The key-down
count of an entry that is neither DOWN nor UP is left as it is, the model's choice (log 65). For a fourth report and a
critical code see ObservationEndResult. Several entries in one ANSWER, and what a cradle's ANSWER does to the
contract, are not stated here. -/
def Obligations.AnswerHandOut : Prop :=
  (∀ (s : State) (k : Pos) (bs : List Byte) (a : Answer),
    s.dev.le.windows.get k = true → s.dev.goodAnswer k (some bs) = some a → a.bufferEmpty = false →
    a.lost = (s.dev.ic.pos.get k).lost → ∀ clean : Bool, clean = (a.sense == none || a.sense == some SenseCode.clean.code) →
    (∀ e : InputEntry, clean = true → s.dev.inFlight k false = none → (s.dev.ic.pos.get k).isOpen = true → a.entries = [e] →
      e.seq = (s.dev.ic.pos.get k).accepted + 1 → 8 ≤ s.dev.ic.free →
      (s.dev.entry k).isAway = true ∨ ((s.dev.entry k).kind ≠ .cradle ∧ (s.dev.entry k).kind ≠ .display) →
      ∃ (d : Dev) (l : Le) (c : Cm), exec (.answer (.answer k) (some bs)) s = .next { s with dev := d } ∧
        Settled { s.dev with
          le := l
          cm := c
          ic := { s.dev.ic with
            staging := s.dev.ic.staging ++ [{ kind := .key, position := posByte k, direction := e.direction, seq := e.seq,
                                               detail := e.key, stamp := s.dev.le.stamp }]
            pos := s.dev.ic.pos.set k { s.dev.ic.pos.get k with
              accepted := e.seq, keyDown := keyDown e.direction (s.dev.ic.pos.get k).keyDown } } } d ∧
        c.table = s.dev.cm.table ∧ c.discovery = s.dev.cm.discovery ∧ ((s.dev.entry k).isAway = true → c = s.dev.cm) ∧
        l.queues = s.dev.le.queues ∧ l.stamp = s.dev.le.stamp ∧ l.current = s.dev.le.current) ∧
    (∀ e : InputEntry, clean = true → s.dev.inFlight k false = none → a.entries = [e] →
      (s.dev.ic.pos.get k).isOpen = false ∨ e.seq ≠ (s.dev.ic.pos.get k).accepted + 1 ∨ s.dev.ic.free < 8 →
      (s.dev.entry k).isAway = true ∨ ((s.dev.entry k).kind ≠ .cradle ∧ (s.dev.entry k).kind ≠ .display) →
      ∃ (d : Dev) (l : Le) (c : Cm), exec (.answer (.answer k) (some bs)) s = .next { s with dev := d } ∧
        Settled { s.dev with le := l, cm := c } d ∧ c.table = s.dev.cm.table ∧ c.discovery = s.dev.cm.discovery ∧
        ((s.dev.entry k).isAway = true → c = s.dev.cm) ∧ l.queues = s.dev.le.queues ∧ l.stamp = s.dev.le.stamp ∧
        l.current = s.dev.le.current) ∧
    (∀ m : Msg, s.dev.inFlight k false = some m → a.entries = [] →
      (s.dev.entry k).isAway = true ∨ (clean = true ∧ (s.dev.entry k).kind ≠ .cradle ∧ (s.dev.entry k).kind ≠ .display) →
      ∃ (d : Dev) (l : Le) (c : Cm), exec (.answer (.answer k) (some bs)) s = .next { s with dev := d } ∧
        Settled { s.dev with le := l, cm := c } d ∧ c.table = s.dev.cm.table ∧ c.discovery = s.dev.cm.discovery ∧
        ((s.dev.entry k).isAway = true → c = s.dev.cm) ∧
        (∀ r code, a.replyTo m = some r → (r = .done ∧ code = .done ∨ r = .refused ∧ code = .refused ∨
            r = .mismatch ∧ code = .mismatch) →
          l.results = s.dev.le.results ++ [m.result k code a.payload] ∧
          l.queues = s.dev.le.queues.set k ((s.dev.queue k).filter fun x => !(x.inFlight && x.payload != .probe))) ∧
        (a.replyTo m = some .busy → m.withdrawn = false → m.firstBusy = none →
          l.results = s.dev.le.results ∧
          l.queues = s.dev.le.queues.set k ((s.dev.queue k).map fun x =>
            if x.inFlight && x.payload != .probe then
              { x with attempts := 0, inFlight := false, firstBusy := some s.dev.le.stamp }
            else x)) ∧
        (∀ b : W32, a.replyTo m = some .busy → m.withdrawn = false → m.firstBusy = some b →
          (64 ≤ (s.dev.le.stamp - b).toNat →
            l.results = s.dev.le.results ++ [m.result k .busyTimeout []] ∧
            l.queues = s.dev.le.queues.set k ((s.dev.queue k).filter fun x => !(x.inFlight && x.payload != .probe))) ∧
          ((s.dev.le.stamp - b).toNat < 64 → l.results = s.dev.le.results ∧
            l.queues = s.dev.le.queues.set k ((s.dev.queue k).map fun x =>
              if x.inFlight && x.payload != .probe then { x with attempts := 0, inFlight := false } else x))) ∧
        (a.replyTo m = none → m.withdrawn = false →
          (3 ≤ m.attempts + 1 → l.results = s.dev.le.results ++ [m.result k .noReply []] ∧
            l.queues = s.dev.le.queues.set k ((s.dev.queue k).filter fun x => !(x.inFlight && x.payload != .probe))) ∧
          (m.attempts + 1 < 3 → l.results = s.dev.le.results ∧
            l.queues = s.dev.le.queues.set k ((s.dev.queue k).map fun x =>
              if x.inFlight && x.payload != .probe then { x with attempts := x.attempts + 1, inFlight := false } else x)))) ∧
    (∀ f, clean = true → k = .p1 → a.entries = [] → (s.dev.entry .p1).kind = .cradle → (s.dev.entry .p1).isAway = false →
      s.dev.inFlight .p1 false = none → a.cradle = some f →
      ∃ d, exec (.answer (.answer .p1) (some bs)) s = .next { s with dev := d } ∧ d.pcu.live = f.live ∧
        d.sc.session = s.dev.sc.session ∧ d.mem = s.dev.mem ∧ (f.dip = true → d.pcu.braced = true) ∧
        ∀ n, d.slu.lines.get n = (if (s.dev.slu.lines.get n).sampled = true then
          (s.dev.slu.lines.get n).sample (f.levels.getLsbD n.toNat) else s.dev.slu.lines.get n)) ∧
    (∀ f, clean = true → a.entries = [] → (s.dev.entry k).kind = .display → (s.dev.entry k).isAway = false →
      s.dev.inFlight k false = none → a.display = some f →
      ∃ d, exec (.answer (.answer k) (some bs)) s = .next { s with dev := d } ∧
        d.dtu.lastTag = s.dev.dtu.lastTag.set k (some f.lastTag) ∧ d.mem = s.dev.mem ∧
        (∀ p, s.dev.dtu.posting = some p → p.target = k → p.state = .gate → p.began ≠ s.dev.le.stamp →
          f.stagingEmpty = true → d.dtu.posting = some { p with state := .sending, timer := 0 }) ∧
        (∀ p, s.dev.dtu.posting = some p → p.target = k → p.state = .sending → p.received < f.received.toNat →
          f.received.toNat ≤ p.sendPoint → f.received.toNat ≠ p.size →
          d.dtu.posting = some { p with received := f.received.toNat, timer := 0 })) ∧
    (∀ j b, a.entries = [] → k.next? = some j → a.sense = some b → (s.dev.entry k).isAway = false →
      (s.dev.entry k).isVacant = false →
      s.dev.inFlight k false = none → s.dev.cm.discovery = .complete →
      ∀ watched : Bool, watched = (s.dev.sc.dock == .docked && s.dev.sc.undock.isNone && (s.dev.entry k).seg == .on) →
      ∀ n : Nat, n = (s.dev.cm.segs.get j).confirm → ∀ code, code = SenseCode.ofCode? b →
      ((code = some .clean ∨ code = some .noLoad) ∨ watched = false ∨ code = none ∨
        (n < 3 ∧ ∃ c, code = some c ∧ c.sort ≠ .critical)) →
      ∃ (d : Dev) (g : SegRecord), exec (.answer (.answer k) (some bs)) s = .next { s with dev := d } ∧
        ((s.dev.entry k).kind ≠ .cradle → (s.dev.entry k).kind ≠ .display →
          ∃ l, Settled { s.dev with le := l, cm := { s.dev.cm with segs := s.dev.cm.segs.set j g } } d) ∧
        d.cm.segs = s.dev.cm.segs.set j g ∧ d.cm.discovery = .complete ∧ d.sc = s.dev.sc ∧ d.mem = s.dev.mem ∧ g.last = b ∧
        (watched = false ∨ code = none → g = { s.dev.cm.segs.get j with last := b }) ∧
        (watched = true → code = some .clean ∨ code = some .noLoad → g.confirm = 0) ∧
        (∀ c, watched = true → code = some c → c.sort = .partial_ ∨ c.sort = .concealed → g.confirm = n + 1))) ∧
  ∀ (s : State) (k : Pos) (bs : List Byte) (a : Answer) (p : InputSession), p = s.dev.ic.pos.get k →
    s.dev.le.windows.get k = true → s.dev.goodAnswer k (some bs) = some a → s.dev.inFlight k false = none → a.entries = [] →
    a.sense = none ∨ a.sense = some SenseCode.clean.code →
    (s.dev.entry k).isAway = true ∨ ((s.dev.entry k).kind ≠ .cradle ∧ (s.dev.entry k).kind ≠ .display) →
    ∃ (d : Dev) (l : Le) (c : Cm) (i : Ic), exec (.answer (.answer k) (some bs)) s = .next { s with dev := d } ∧
      Settled { s.dev with
        le := l
        cm := c
        ic := i
        sc := if a.bufferEmpty = true then
            { s.dev.sc with sequence := s.dev.sc.sequence.map fun q => { q with empty := q.empty.set k true } }
          else s.dev.sc } d ∧
      c.table = s.dev.cm.table ∧ c.discovery = s.dev.cm.discovery ∧ l.queues = s.dev.le.queues ∧
      (p.isOpen = true → a.lost ≠ p.lost → 0 < s.dev.ic.free →
        i = { s.dev.ic with
          staging := s.dev.ic.staging ++ [marker s.dev .loss (posByte k) (a.lost - p.lost)]
          pos := s.dev.ic.pos.set k { p with lost := a.lost } }) ∧
      (p.isOpen = false ∨ a.lost = p.lost ∨ s.dev.ic.free = 0 → i = s.dev.ic)

/-- ERROR_WINDOW_END: every window error count returns to 0, and the degraded flag clears of each position whose count stayed
below the threshold through the window; nothing else changes (R47). -/
def Obligations.ErrorWindowEndResult : Prop :=
  ∀ s : State, s.dev.le.windowEnded = true →
    exec .errorWindowEnd s = .next { s with dev := { s.dev with le := { s.dev.le with
      windowEnded := false, winErr := Per6.const 0, reached := Per6.const false
      degraded := Per6.ofFn fun k => s.dev.le.degraded.get k && s.dev.le.reached.get k } } }

/-- LOSS_REPORT of a position in use: its entry and those behind it that were in use or being brought in go LOST with the
stamp, the state they left as resume state and the attempt count 0; every other entry is as it was, and a NODE_LOST record
is in the log (R13, R80). -/
def Obligations.LossReportResult : Prop :=
  ∀ (s : State) (k : Pos), s.dev.le.lossDue.get k = true → (s.dev.entry k).releasing = false →
    (s.dev.entry k).state.live?.isSome = true →
    ∃ d, exec (.lossReport k) s = .next { s with dev := d } ∧ d.le.lossDue.get k = false ∧ d.sc = s.dev.sc ∧
      d.mem = s.dev.mem ∧
      (∀ j l, k.toNat ≤ j.toNat → (s.dev.entry j).releasing = false → (s.dev.entry j).state.live? = some l →
        d.entry j = { s.dev.entry j with
          state := .lost, resume := some l, lostAt := some s.dev.le.stamp, attempts := 0 } ∧ d.le.next.get j = false) ∧
      (∀ j, (j.toNat < k.toNat ∨ (s.dev.entry j).releasing = true ∨ (s.dev.entry j).state.live? = none) →
        d.entry j = s.dev.entry j ∧ d.le.next.get j = s.dev.le.next.get j) ∧
      ({ number := s.dev.cm.log.total + 1, code := .nodeLost, placeKind := .position, place := posByte k
         localized := false, detail := .none, session := s.dev.sc.session, stamp := s.dev.le.stamp } : FaultRecord)
        ∈ d.cm.log.records

/-- INTERRUPTION_REPORT while DOCKED with no undock pending begins hold-over: the dock is HOLDING, the hold timer 0, the
answer list position 1 alone, and every entry in use or being brought in, with no release pending, is HELD with the
state it left; every other entry is as it was (R9, R46, R90, R91). The first hold tick comes with it: RESUME(1), then
PROBE(1), join the queue of position 1 (R91, R92). -/
def Obligations.InterruptionReportResult : Prop :=
  ∀ s : State, s.dev.le.interruptionDue = true → s.dev.sc.dock = .docked → s.dev.sc.undock = none →
    ∃ d, exec .interruptionReport s = .next { s with dev := d } ∧ d.sc.dock = .holding ∧ d.sc.holdTimer = 0 ∧
      d.sc.tickTimer = 0 ∧ d.sc.session = s.dev.sc.session ∧ d.le.interruptionDue = false ∧
      d.le.next = Per6.ofFn (fun k => k == .p1) ∧
      d.xp.counters.get .dock = s.dev.xp.counters.get .dock + 1 ∧
      (∀ k l, (s.dev.entry k).releasing = false → (s.dev.entry k).state.live? = some l →
        d.entry k = { s.dev.entry k with state := .held, resume := some l, lostAt := none, attempts := 0 }) ∧
      (∀ k, (s.dev.entry k).releasing = true ∨ (s.dev.entry k).state.live? = none → d.entry k = s.dev.entry k) ∧
      (s.dev.resumeOut .p1 .sc = false → s.dev.probeOut .p1 .sc = false → (s.dev.entry .p1).releasing = false →
        (s.dev.queue .p1).length ≤ 6 →
        ∃ q, q.length ≤ (s.dev.queue .p1).length ∧
          d.queue .p1 = q ++ [Msg.new .sc (.resume s.dev.sc.session), Msg.new .sc .probe])

/-! ### Results of control messages (R42 and the chapter of each) -/

/-- PROBE_RESULT. DONE with an identity header: in BRINGUP with the table empty the cradle goes PROBED with the
identity of the answer and joins the next schedule (R6, R87); at the position discovery probes, VACANT and last + 1,
the node goes PROBED, SEGMENT ON is queued to the node ahead and discovery waits with retry count 0 (R6, R53); the
standing fault of the segment ends, at a retry step and a step after a chain retry by R71, at a step of any other kind
as the model takes it (log 62); at a returned position a matching node goes PROBED, returned and identity
kept (R12), also where discovery is not probing there any more: a late answer is taken (log 52). In HOLDING, PROBE(1)
answered by the cradle, whose entry is HELD or, as the model takes it, LOST (log 30): a matching one returns: DOCKED
with the session kept, entry 1 PROBED and every entry behind HELD, all marked returned (R11, R94); any other ends the
session and a fresh dock begins (R93, R94). No answer: before 50 superframes PROBE is queued again, then the position
is SILENT: the fault stands localized, the segment is FAULT and discovery FAULTED or, after the eighth retry, GIVEN_UP
(R53, R63, R69). -/
def Obligations.ProbeResultEffect : Prop :=
  ∀ (s : State) (r : CtrlResult) (rest : List CtrlResult), s.dev.le.results = r :: rest → r.payload = .probe →
    s.dev.anyReleasing = false → s.dev.sc.undock = none →
    (∀ i e, r.code = .done → parseIdentity r.data = some i → (s.dev.entry r.pos).isVacant = true →
      e = { s.dev.entry r.pos with
        state := .probed, kind := i.kind, vendor := i.vendor, product := i.product, revision := i.revision
        serial := i.serial, returned := false, imageLost := false, announced := false, resume := none, lostAt := none
        attempts := 0 } →
      (r.pos = .p1 → s.dev.sc.dock = .bringup → s.dev.last = 0 →
        ∃ d, exec .probeResult s = .next { s with dev := d } ∧
          Settled { s.dev with
            le := { s.dev.le with results := rest, next := s.dev.le.next.set .p1 true }
            cm := { s.dev.cm with table := s.dev.cm.table.set .p1 e }
            sc := { s.dev.sc with probeAnswered := true } } d) ∧
      (∀ j, r.pos.prev? = some j → s.dev.sc.dock = .docked → s.dev.cm.discovery = .probing → s.dev.faultRead = none →
        s.dev.frontierPos = some r.pos → r.pos.toNat = s.dev.last + 1 → Takes s.dev j (Msg.new .cm (.segment .on .bringOn)) →
        ∃ d, exec .probeResult s = .next { s with dev := d } ∧
          Settled { s.dev with
            le := queued j .cm (.segment .on .bringOn)
              { s.dev.le with results := rest, next := s.dev.le.next.set r.pos true }
            cm := { s.dev.cm with
              table := s.dev.cm.table.set r.pos e
              segs := s.dev.cm.segs.set r.pos { s.dev.cm.segs.get r.pos with standing := none, cleanRun := 0 }
              discovery := .waiting, isRetry := false, offWait := false, codeRead := none, retry := 0 } } d)) ∧
    (∀ i, r.code = .done → parseIdentity r.data = some i → r.pos ≠ .p1 → (s.dev.entry r.pos).isReturned = true →
      i.matchesEntry (s.dev.entry r.pos) = true → s.dev.sc.dock = .docked → s.dev.faultRead = none →
      ∃ d, exec .probeResult s = .next { s with dev := d } ∧
        d.entry r.pos = { s.dev.entry r.pos with state := .probed, revision := i.revision } ∧
        d.le.next.get r.pos = true ∧ (∀ j, j ≠ r.pos → d.entry j = s.dev.entry j) ∧ d.sc = s.dev.sc ∧ d.mem = s.dev.mem) ∧
    (∀ i, r.code = .done → parseIdentity r.data = some i → r.pos = .p1 → s.dev.sc.dock = .holding →
      (s.dev.entry .p1).isAway = true →
      (i.matchesEntry (s.dev.entry .p1) = true → s.dev.cm.discovery ≠ .locating →
        ∃ d, exec .probeResult s = .next { s with dev := d } ∧ d.sc.dock = .docked ∧
          d.sc.session = s.dev.sc.session ∧ d.sc.announced = s.dev.sc.announced ∧ d.le.next.get .p1 = true ∧
          d.pcu.contract = .none ∧ d.mem = s.dev.mem ∧
          (d.entry .p1).state = .probed ∧ (d.entry .p1).returned = true ∧ (d.entry .p1).resume = none ∧
          (d.entry .p1).revision = i.revision ∧
          ∀ k, k ≠ .p1 → ((s.dev.entry k).isVacant = true → d.entry k = s.dev.entry k) ∧
            ((s.dev.entry k).isVacant = false → (d.entry k).state = .held ∧ (d.entry k).returned = true ∧
              (d.entry k).resume = none ∧ (d.entry k).lostAt = none ∧ (d.entry k).attempts = 0 ∧
              (d.entry k).serial = (s.dev.entry k).serial)) ∧
      (i.matchesEntry (s.dev.entry .p1) = false → s.dev.cm.release = none → s.dev.xp.part = .running →
        ∃ d, exec .probeResult s = .next { s with dev := d } ∧ d.sc.dock = .bringup ∧
          d.sc.session = nextSession s.dev.sc.session ∧ d.sc.undock = none ∧ d.mem = s.dev.mem ∧
          ∀ k, (d.entry k).state = .vacant)) ∧
    (∀ j, r.code = .noReply → r.pos.prev? = some j → s.dev.sc.dock = .docked → s.dev.cm.discovery = .probing →
      s.dev.faultRead = none → s.dev.anyLost = false → s.dev.frontierPos = some r.pos →
      (s.dev.cm.stepTimer < 50 → Takes s.dev r.pos (Msg.new .cm .probe) →
        ∃ d, exec .probeResult s = .next { s with dev := d } ∧
          Settled { s.dev with le := queued r.pos .cm .probe { s.dev.le with results := rest } } d) ∧
      (50 ≤ s.dev.cm.stepTimer → (s.dev.entry r.pos).isReturned = false →
        ∃ d, exec .probeResult s = .next { s with dev := d } ∧ (d.entry j).seg = .fault ∧
          (d.cm.segs.get r.pos).standing = some { code := .silent, sense := none, localized := true } ∧
          d.cm.discovery = (if s.dev.cm.isRetry = true ∧ 8 ≤ s.dev.cm.retry then .givenUp else .faulted)))

/-- RESUME_RESULT for a HELD or LOST entry. DONE, outside the cradle's return from hold-over: the entry returns to its
resume state, which becomes absent with time entered LOST, the attempt count is 0, the position joins the next schedule
and its miss counter is 0; every other entry is as it was (R10). RESUME(1) in HOLDING, DONE, or MISMATCH of an entry
that was not ACTIVE: the dock is DOCKED again, with the same session, nothing staged and no marker dropped, and the
return pass begins with RESUME to the lowest HELD entry behind it, or ends at once where there is none or it has no
resume state (R93, R95). NO_REPLY, BUSY_TIMEOUT or REFUSED outside the return pass: the attempt count advances by 1 and
the entry keeps its state (R10). MISMATCH at position 2 or above: a FAILED entry returns to FAILED; any other is
covered, with every entry behind it, by a release whose RELEASE messages go to all of them, and the return pass ends
(R10, R16, R95). An entry with no resume state takes a failure and a MISMATCH as any other; on DONE it keeps its state, the
rest as R10 has it (the model's choice, log 71). MISMATCH of RESUME(1) for an entry that was ACTIVE, in HOLDING and DOCKED: another dock's session, so
the session ends, with the markers of its entries and then UNDOCK, and a fresh dock begins (R90, R93, R18, R89).
MISMATCH of RESUME(1) in BRINGUP, and in DOCKED of an entry that was not ACTIVE: it returns to its resume state as for
DONE, dock and session as they were (R88, R90, R10). In the return pass: a failure short of the third sends RESUME
again, the third takes the position and the HELD entries behind it that have a resume state to LOST and ends the pass,
their delivered blocks UNKNOWN, also where a DONE in flight at the hold has set one since, and a STATUS_BLOCK of theirs not
yet sent withdrawn (R165); DONE at 2 or above goes on to the next HELD entry, and where there is none, or it has no resume state, the pass ends
(R95). That the result of a RESUME left from a pass before counts too is the model's choice (log 86). The cradle's return while discovery is LOCATING is not stated here. -/
def Obligations.ResumeResultEffect : Prop :=
  ∀ (s : State) (r : CtrlResult) (rest : List CtrlResult) (n : W16),
    s.dev.le.results = r :: rest → r.payload = .resume n → (s.dev.entry r.pos).isAway = true →
    (s.dev.entry r.pos).releasing = false → s.dev.sc.undock = none →
    (∀ l : Live, (s.dev.entry r.pos).resume = some l →
      (r.code = .done → r.pos ≠ .p1 ∨ s.dev.sc.dock ≠ .holding →
        ∃ d, exec .resumeResult s = .next { s with dev := d } ∧
          (d.entry r.pos).state = l.toState ∧ (d.entry r.pos).resume = none ∧ (d.entry r.pos).lostAt = none ∧
          (d.entry r.pos).attempts = 0 ∧ d.le.next.get r.pos = true ∧ d.le.miss.get r.pos = 0 ∧
          ∀ j, j ≠ r.pos → d.entry j = s.dev.entry j) ∧
      (r.code = .done ∨ (r.code = .mismatch ∧ l ≠ .active) → r.pos = .p1 → s.dev.sc.dock = .holding →
        s.dev.cm.discovery ≠ .locating →
        ∃ d, exec .resumeResult s = .next { s with dev := d } ∧ d.sc.dock = .docked ∧ d.sc.session = s.dev.sc.session ∧
          d.xp.counters.get .dock = s.dev.xp.counters.get .dock + 1 ∧ (d.entry .p1).state = l.toState ∧
          (d.entry .p1).resume = none ∧ d.le.next.get .p1 = true ∧ d.mem = s.dev.mem ∧ d.ic = s.dev.ic ∧
          (∀ j, j ≠ .p1 → d.entry j = s.dev.entry j) ∧
          ∀ target : Option Pos, target = (Pos.all.find? fun j => decide (1 < j.toNat) && (s.dev.entry j).state == .held &&
              !(s.dev.entry j).releasing) →
            (∀ j, target = some j → (s.dev.entry j).resume.isSome = true → d.sc.pass = some j ∧
              ((s.dev.queue j).length ≤ 6 → Msg.new .sc (.resume s.dev.sc.session) ∈ d.queue j)) ∧
            (target = none ∨ (∃ j, target = some j ∧ (s.dev.entry j).resume = none) → d.sc.pass = none)) ∧
      (r.code = .mismatch → r.pos ≠ .p1 → l = .failed →
        ∃ d, exec .resumeResult s = .next { s with dev := d } ∧ (d.entry r.pos).state = .failed ∧
          (d.entry r.pos).resume = none ∧ ∀ j, j ≠ r.pos → d.entry j = s.dev.entry j) ∧
      (r.code = .mismatch → r.pos = .p1 → s.dev.sc.dock = .holding ∨ s.dev.sc.dock = .docked → l = .active →
        s.dev.anyReleasing = false → s.dev.cm.release = none → s.dev.xp.part = .running →
        ∃ d, exec .resumeResult s = .next { s with dev := d } ∧ d.sc.dock = .bringup ∧
          d.sc.session = nextSession s.dev.sc.session ∧ d.sc.undock = none ∧ d.mem = s.dev.mem ∧
          Staged (leavingAll s.dev ++ undockMarker s.dev .otherDock) s.dev d ∧
          ∀ k, (d.entry k).state = .vacant) ∧
      (r.code = .mismatch → r.pos = .p1 → s.dev.sc.dock = .bringup ∨ (s.dev.sc.dock = .docked ∧ l ≠ .active) →
        ∃ d, exec .resumeResult s = .next { s with dev := d } ∧ (d.entry .p1).state = l.toState ∧
          (d.entry .p1).resume = none ∧ (d.entry .p1).lostAt = none ∧ (d.entry .p1).attempts = 0 ∧ d.le.next.get .p1 = true ∧
          d.le.miss.get .p1 = 0 ∧ d.sc.dock = s.dev.sc.dock ∧ d.sc.session = s.dev.sc.session ∧ d.ic = s.dev.ic ∧
          ∀ j, j ≠ .p1 → d.entry j = s.dev.entry j)) ∧
    ((s.dev.entry r.pos).resume = none → r.code = .done → r.pos ≠ .p1 ∨ s.dev.sc.dock ≠ .holding →
      ∃ d, exec .resumeResult s = .next { s with dev := d } ∧
        d.entry r.pos = { s.dev.entry r.pos with lostAt := none, attempts := 0 } ∧ d.le.next.get r.pos = true ∧
        d.le.miss.get r.pos = 0 ∧ ∀ j, j ≠ r.pos → d.entry j = s.dev.entry j) ∧
    (r.code = .noReply ∨ r.code = .busyTimeout ∨ r.code = .refused → s.dev.sc.pass ≠ some r.pos →
      ∃ d, exec .resumeResult s = .next { s with dev := d } ∧
        Settled { s.dev with
          le := { s.dev.le with results := rest }
          cm := { s.dev.cm with
            table := s.dev.cm.table.set r.pos { s.dev.entry r.pos with attempts := satInc (s.dev.entry r.pos).attempts } } } d) ∧
    (r.code = .mismatch → r.pos ≠ .p1 → (s.dev.entry r.pos).resume ≠ some .failed →
      s.dev.anyReleasing = false → s.dev.cm.release = none →
      ∃ (d : Dev) (w : Release), exec .resumeResult s = .next { s with dev := d } ∧ d.cm.release = some w ∧
        w.first = r.pos ∧ w.after = .deferred ∧ d.mem = s.dev.mem ∧ (s.dev.sc.pass = some r.pos → d.sc.pass = none) ∧
        (∀ j, r.pos.toNat ≤ j.toNat → (s.dev.entry j).isVacant = false →
          w.waits.get j = true ∧ d.entry j = { s.dev.entry j with releasing := true } ∧ d.le.next.get j = false) ∧
        ∀ j, (j.toNat < r.pos.toNat ∨ (s.dev.entry j).isVacant = true) → d.entry j = s.dev.entry j) ∧
    (s.dev.sc.pass = some r.pos → ∀ again : Payload, again = .resume s.dev.sc.session →
      (∀ e : Entry, r.code = .noReply ∨ r.code = .busyTimeout ∨ r.code = .refused →
        e = { s.dev.entry r.pos with attempts := satInc (s.dev.entry r.pos).attempts } →
        (e.attempts.toNat < 3 → Takes s.dev r.pos (Msg.new .sc again) →
          ∃ d, exec .resumeResult s = .next { s with dev := d } ∧
            Settled { s.dev with
              le := queued r.pos .sc again { s.dev.le with results := rest }
              cm := { s.dev.cm with table := s.dev.cm.table.set r.pos e } } d) ∧
        (3 ≤ e.attempts.toNat →
          ∃ d, exec .resumeResult s = .next { s with dev := d } ∧ d.sc = { s.dev.sc with pass := none } ∧ d.mem = s.dev.mem ∧
            ∀ j f, f = (if j = r.pos then e else s.dev.entry j) →
              (r.pos.toNat ≤ j.toNat ∧ f.state = .held ∧ f.resume.isSome = true ∧ f.releasing = false →
                d.entry j = { f with state := .lost, lostAt := some s.dev.le.stamp, attempts := 0 } ∧
                d.pcu.delivered.get j = none ∧
                d.queue j = (s.dev.queue j).filter fun m => !(m.payload.isStatusBlock && m.tag.isNone)) ∧
              (¬ (r.pos.toNat ≤ j.toNat ∧ f.state = .held ∧ f.resume.isSome = true ∧ f.releasing = false) →
                d.entry j = f ∧ d.pcu.delivered.get j = s.dev.pcu.delivered.get j ∧ d.queue j = s.dev.queue j))) ∧
      (r.code = .done → r.pos ≠ .p1 → ∀ target : Option Pos,
        target = (Pos.all.find? fun j => decide (r.pos.toNat < j.toNat) && (s.dev.entry j).state == .held &&
          !(s.dev.entry j).releasing) →
        ∃ d, exec .resumeResult s = .next { s with dev := d } ∧
          (∀ j, target = some j → (s.dev.entry j).resume.isSome = true →
            d.sc.pass = some j ∧ Joins j .sc again s.dev d) ∧
          (target = none ∨ (∃ j, target = some j ∧ (s.dev.entry j).resume = none) → d.sc.pass = none)))

/-- READ_RESULT of the walk under way. DONE of the header: the READ at the first record is queued. DONE of a record,
the twelfth at most: one of a kind the node does not use, or of a kind used before, is skipped; one longer than the
bytes read asks for the bytes that follow; one read whole whose fields pass its checks builds its section of the
capability summary; then the READ at the next record is queued (R56, R57). With no next record the walk ends: the
downstream segment state is the one the ident section gives (of a returned cradle with the chain shut by segment 2 too, which
is the model's choice, log 93), and the entry is CONFIGURING, with the SET of the session
items queued, where the summary and the place of the node are right, and otherwise FAILED, with one record of the
fault code (R58, R59, R61). A header or record in breach, a thirteenth record, REFUSED and BUSY_TIMEOUT: the entry is
FAILED, with one BAD_DESCRIPTOR record, at position 2 or above and at the cradle in BRINGUP (R55, R59, R60). NO_REPLY:
the same READ is queued again (R60). Every other entry is as it was. -/
def Obligations.ReadResultEffect : Prop :=
  ∀ (s : State) (r : CtrlResult) (rest : List CtrlResult) (o : Byte) (w : Walk),
    s.dev.le.results = r :: rest → r.payload = .read o w.serial → s.dev.cm.walks.get r.pos = some w →
    (s.dev.entry r.pos).state = .reading → (s.dev.entry r.pos).releasing = false →
    (∀ first total, r.code = .done → w.at_ = .header → descriptorHeader (r.data.take 16) = some (first, total) →
      Takes s.dev r.pos (Msg.new .cm (.read (BitVec.ofNat 8 first) w.serial)) →
      ∃ d, exec .readResult s = .next { s with dev := d } ∧
        Settled { s.dev with
          le := queued r.pos .cm (.read (BitVec.ofNat 8 first) w.serial) { s.dev.le with results := rest }
          cm := { s.dev.cm with
            walks := s.dev.cm.walks.set r.pos (some { w with limit := total, at_ := .record first [] }) } } d) ∧
    (r.code = .noReply → Takes s.dev r.pos (Msg.new .cm (.read o w.serial)) →
      ∃ d, exec .readResult s = .next { s with dev := d } ∧
        Settled { s.dev with le := queued r.pos .cm (.read o w.serial) { s.dev.le with results := rest } } d) ∧
    (r.code = .refused ∨ r.code = .busyTimeout → r.pos ≠ .p1 →
      ∃ d, exec .readResult s = .next { s with dev := d } ∧ (d.entry r.pos).state = .failed ∧
        d.cm.walks.get r.pos = none ∧ ∀ j, j ≠ r.pos → d.entry j = s.dev.entry j) ∧
    (∀ at' buf, r.code = .done → w.at_ = .record at' buf → ∀ (bs : List Byte) (v : Walk), bs = buf ++ r.data.take 16 →
      v = (if buf = [] then { w with count := w.count + 1 } else w) → v.count ≤ 12 →
      ∀ kind length next, recordHeader w.limit at' bs = some (kind, length, next) →
      ∀ (skipped : Bool) (built : Option Caps), skipped = (!(s.dev.entry r.pos).kind.uses kind || w.used.contains kind) →
      built = (if skipped then some (s.dev.entry r.pos).caps
        else buildSection (s.dev.entry r.pos).kind kind (bs.take length) (s.dev.entry r.pos).caps) →
      (skipped = false → bs.length < length → ∀ more : Payload, more = .read (BitVec.ofNat 8 (at' + bs.length)) w.serial →
        Takes s.dev r.pos (Msg.new .cm more) →
        ∃ d, exec .readResult s = .next { s with dev := d } ∧
          Settled { s.dev with
            le := queued r.pos .cm more { s.dev.le with results := rest }
            cm := { s.dev.cm with walks := s.dev.cm.walks.set r.pos (some { v with at_ := .record at' bs }) } } d) ∧
      (skipped = true ∨ length ≤ bs.length → ∀ c, built = some c →
        (next ≠ 0 → ∀ more : Payload, more = .read (BitVec.ofNat 8 next) w.serial → Takes s.dev r.pos (Msg.new .cm more) →
          ∃ d, exec .readResult s = .next { s with dev := d } ∧
            Settled { s.dev with
              le := queued r.pos .cm more { s.dev.le with results := rest }
              cm := { s.dev.cm with
                table := s.dev.cm.table.set r.pos { s.dev.entry r.pos with caps := c }
                walks := s.dev.cm.walks.set r.pos (some { v with
                  at_ := .record next [], used := if skipped then w.used else kind :: w.used }) } } d) ∧
        (∀ e : Entry, next = 0 → e = { s.dev.entry r.pos with caps := c, seg := c.segState } →
          (walkFault r.pos e = none →
            ∃ d, exec .readResult s = .next { s with dev := d } ∧ d.entry r.pos = { e with state := .configuring } ∧
              (∀ j, j ≠ r.pos → d.entry j = s.dev.entry j) ∧ d.cm.walks.get r.pos = none ∧
              d.cm.configuring.get r.pos = { Configuring.init with serial := s.dev.cm.workSerial + 1 } ∧
              Joins r.pos .cm (.set s.dev.sessionItems (s.dev.cm.workSerial + 1)) s.dev d) ∧
          (∀ code, walkFault r.pos e = some code → r.pos ≠ .p1 ∨ s.dev.sc.dock = .bringup →
            ∃ d, exec .readResult s = .next { s with dev := d } ∧ (d.entry r.pos).state = .failed ∧
              (d.entry r.pos).caps = c ∧ (d.entry r.pos).seg = c.segState ∧ d.cm.walks.get r.pos = none ∧
              (∀ j, j ≠ r.pos → d.entry j = s.dev.entry j) ∧
              nextRecord s.dev code .position (posByte r.pos) true .none ∈ d.cm.log.records)))) ∧
    (r.code = .refused ∨ r.code = .busyTimeout ∨
        (r.code = .done ∧ w.at_ = .header ∧ descriptorHeader (r.data.take 16) = none) ∨
        (∃ at' buf bs, r.code = .done ∧ w.at_ = .record at' buf ∧ bs = buf ++ r.data.take 16 ∧
          (12 < (if buf = [] then w.count + 1 else w.count) ∨ recordHeader w.limit at' bs = none ∨
            ∃ kind length next, recordHeader w.limit at' bs = some (kind, length, next) ∧
              (s.dev.entry r.pos).kind.uses kind = true ∧ w.used.contains kind = false ∧ length ≤ bs.length ∧
              buildSection (s.dev.entry r.pos).kind kind (bs.take length) (s.dev.entry r.pos).caps = none)) →
      r.pos ≠ .p1 ∨ s.dev.sc.dock = .bringup →
      ∃ d, exec .readResult s = .next { s with dev := d } ∧ (d.entry r.pos).state = .failed ∧
        (d.entry r.pos).seg = (s.dev.entry r.pos).caps.segState ∧ d.cm.walks.get r.pos = none ∧
        (∀ j, j ≠ r.pos → d.entry j = s.dev.entry j) ∧
        nextRecord s.dev .badDescriptor .position (posByte r.pos) true .none ∈ d.cm.log.records)

/-- SET_RESULT. Of a push to an ACTIVE entry: REFUSED ends the push with NODE_REFUSED and writes the applied record, the
shadow unchanged (that a push without a take of its own does so over a REFUSED record too is the model's choice, log 107); DONE gives the items the values sent (R112, R114). In RELEASING a result of a SET of the Intent Reconciler,
whatever it is, leaves every shadow as it stands (R117). Of the session items of an earlier configuring, or at an entry that
is not CONFIGURING, DONE: HOLD_LIMIT is confirmed and the input session of a node with keys opens (R112, R123), and the
entry and its configuring stay as they are, as they do at any other result (the model's choice, log 67). That HOLD_LIMIT is
confirmed in RELEASING too, by R112 and against R117, is the model's choice (log 58). Of the session items of the configuring
under way, DONE: HOLD_LIMIT is confirmed (R112), the
session items are done (R61), the input session of a node with keys opens (R123), outside RELEASING the first apply
begins, with its first SET queued where an item differs (R118), and at position 1 a contract in NONE leaves it:
REQUESTED for the pick, or BASE (R155). Of the last SET of a first apply, DONE, at an entry CONFIGURING whose session
items are done and that is no status consumer or has its first block: the entry goes ACTIVE, announced, with NODE_ADDED
and its kind where it was not announced, and the applied generation is the push's (R7, R61, R118, R129). The cradle's
takes the dock from BRINGUP to DOCKED: DOCK advances by 1, dock announced is set, the DOCK marker stands before
NODE_ADDED, and discovery waits at the frontier (R87, R50, R102). -/
def Obligations.SetResultEffect : Prop :=
  ∀ (s : State) (r : CtrlResult) (rest : List CtrlResult) (items : List SetItem) (n : Nat),
    s.dev.le.results = r :: rest → r.payload = .set items n → (s.dev.entry r.pos).releasing = false →
    (∀ p, r.sub = .ir → r.code = .refused → (s.dev.entry r.pos).state = .active →
      (s.dev.ir.pos.get r.pos).push = some p →
      ∃ d, exec .setResult s = .next { s with dev := d } ∧
        Settled { s.dev with
          le := { s.dev.le with results := rest }
          ir := { s.dev.ir with pos := s.dev.ir.pos.set r.pos { s.dev.ir.pos.get r.pos with
            push := none, appliedGen := p.gen, result := .nodeRefused, refused := 0, stamp := s.dev.le.stamp } }
          pub := { s.dev.pub with applied := s.dev.pub.applied.modify r.pos Sec.want } } d) ∧
    (r.sub = .ir → r.code = .done → (s.dev.entry r.pos).state = .active →
      ∃ d, exec .setResult s = .next { s with dev := d } ∧
        (d.ir.pos.get r.pos).shadow = (if s.dev.sc.dock = .releasing then (s.dev.ir.pos.get r.pos).shadow
          else Shadow.confirm items (s.dev.ir.pos.get r.pos).shadow) ∧
        d.cm.table = s.dev.cm.table ∧ d.sc = s.dev.sc ∧ d.mem = s.dev.mem) ∧
    (r.sub = .ir → s.dev.sc.dock = .releasing →
      ∃ d, exec .setResult s = .next { s with dev := d } ∧ d.mem = s.dev.mem ∧
        ∀ k, (d.ir.pos.get k).shadow = (s.dev.ir.pos.get k).shadow) ∧
    (r.sub = .cm → (s.dev.entry r.pos).state ≠ .configuring ∨ (s.dev.cm.configuring.get r.pos).serial ≠ n ∨
        (s.dev.cm.configuring.get r.pos).sessionDone = true →
      (r.code = .done → ∃ d, exec .setResult s = .next { s with dev := d } ∧ InputOpened r.pos s.dev d ∧
        (d.ir.pos.get r.pos).shadow = Shadow.confirm items (s.dev.ir.pos.get r.pos).shadow ∧
        (∀ j, j ≠ r.pos → d.ic.pos.get j = s.dev.ic.pos.get j) ∧ d.cm.table = s.dev.cm.table ∧
        d.cm.configuring = s.dev.cm.configuring ∧ d.sc = s.dev.sc ∧ d.mem = s.dev.mem) ∧
      (r.code ≠ .done → ∃ d, exec .setResult s = .next { s with dev := d } ∧
        Settled { s.dev with le := { s.dev.le with results := rest } } d)) ∧
    (∀ u : Dev, r.sub = .cm → r.code = .done → (s.dev.entry r.pos).state = .configuring →
      (s.dev.cm.configuring.get r.pos).serial = n → (s.dev.cm.configuring.get r.pos).sessionDone = false →
      u = { s.dev with
        le := { s.dev.le with results := rest }
        ir := { s.dev.ir with pos := s.dev.ir.pos.set r.pos { s.dev.ir.pos.get r.pos with
          shadow := Shadow.confirm items (s.dev.ir.pos.get r.pos).shadow } } } →
      ∃ d, exec .setResult s = .next { s with dev := d } ∧ (d.cm.configuring.get r.pos).sessionDone = true ∧
        d.mem = s.dev.mem ∧ InputOpened r.pos s.dev d ∧ FirstApplyBegun r.pos u d ∧
        (r.pos = .p1 → s.dev.pcu.contract = .none → LeftNone s.dev d) ∧
        (r.pos ≠ .p1 ∨ s.dev.pcu.contract ≠ .none →
          d.pcu.contract = s.dev.pcu.contract ∧ d.pcu.offer = s.dev.pcu.offer)) ∧
    (∀ (p : Push) (u : Dev), r.sub = .ir → r.code = .done → (s.dev.ir.pos.get r.pos).push = some p → p.first = true →
      (s.dev.entry r.pos).state = .configuring → (s.dev.cm.configuring.get r.pos).sessionDone = true →
      (s.dev.entry r.pos).isConsumer = false ∨ (s.dev.cm.configuring.get r.pos).blockDone = true →
      u = { s.dev with
        le := { s.dev.le with results := rest }
        ir := { s.dev.ir with pos := s.dev.ir.pos.set r.pos { s.dev.ir.pos.get r.pos with
          shadow := if s.dev.sc.dock = .releasing then (s.dev.ir.pos.get r.pos).shadow
            else Shadow.confirm items (s.dev.ir.pos.get r.pos).shadow } } } →
      u.settingOut r.pos = false → u.differing r.pos = [] →
      ∃ d, exec .setResult s = .next { s with dev := d } ∧ CameActive r.pos s.dev d ∧
        (d.ir.pos.get r.pos).appliedGen = p.gen ∧ (d.ir.pos.get r.pos).push = none ∧ d.mem = s.dev.mem)

/-- SEGMENT_RESULT of discovery's DIAG in POWERING. DONE: the segment ahead of the frontier is DIAG and discovery
OBSERVING with the step timer 0. REFUSED: the segment state is NONE and discovery COMPLETE with no re-check; at a
frontier that is a returned position this is an end of chain too, as the model reads it (log 59), and the entries from
there on are VACANT (R12). NO_REPLY or BUSY_TIMEOUT: the same SEGMENT DIAG is queued again (R51). That the result of a DIAG
left from before a hold counts as that of the step taken again is the model's choice (log 112). -/
def Obligations.SegmentResultOfDiag : Prop :=
  ∀ (s : State) (r : CtrlResult) (rest : List CtrlResult) (set : SegSetting),
    s.dev.le.results = r :: rest → r.payload = .segment set .stepDiag → (s.dev.entry r.pos).releasing = false →
    s.dev.cm.discovery = .powering → s.dev.ahead = some r.pos →
    (r.code = .done → ∃ d, exec .segmentResult s = .next { s with dev := d } ∧
      Settled { s.dev with
        le := { s.dev.le with results := rest }
        cm := { s.dev.cm with
          table := s.dev.cm.table.set r.pos { s.dev.entry r.pos with seg := .diag }
          discovery := .observing, stepTimer := 0, codeRead := none } } d) ∧
    (r.code = .refused → (∀ k, s.dev.frontierPos = some k → (s.dev.entry k).isReturned = false) →
      ∃ d, exec .segmentResult s = .next { s with dev := d } ∧
      Settled { s.dev with
        le := { s.dev.le with results := rest }
        cm := { s.dev.cm with
          table := s.dev.cm.table.set r.pos { s.dev.entry r.pos with seg := .none }
          discovery := .complete, recheck := false, frontierTimer := 0, initialPass := false, isRetry := false
          offWait := false, codeRead := none } } d) ∧
    (r.code = .noReply ∨ r.code = .busyTimeout → Takes s.dev r.pos (Msg.new .cm (.segment .diag .stepDiag)) →
      ∃ d, exec .segmentResult s = .next { s with dev := d } ∧
        Settled { s.dev with le := queued r.pos .cm (.segment .diag .stepDiag) { s.dev.le with results := rest } } d) ∧
    (∀ k, r.code = .refused → s.dev.frontierPos = some k → (s.dev.entry k).isReturned = true → s.dev.anyReleasing = false →
      s.dev.cm.release = none → s.dev.sc.undock = none →
      ∃ d, exec .segmentResult s = .next { s with dev := d } ∧ d.cm.discovery = .complete ∧ d.cm.recheck = false ∧
        d.cm.release = none ∧ (d.entry r.pos).seg = .none ∧ d.sc = s.dev.sc ∧ d.mem = s.dev.mem ∧
        (∀ i, k.toNat ≤ i.toNat → (d.entry i).state = .vacant) ∧
        ∀ i, i.toNat < k.toNat → i ≠ r.pos → d.entry i = s.dev.entry i)

/-- SUPPLY_RESULT of a contract in REQUESTED. DONE: TRANSITION with the transition timer 0, and CONTRACT advances by
1. REFUSED or BUSY_TIMEOUT: the contract offer joins the refused set (R156, R166), and selection runs again at once:
the contract requests the pick, with mismatch set where its power is below the minimum, and SUPPLY for it is queued;
with no pick the contract is BASE, and where the supply state is TRANSITION or READY and offer 0 is not refused the
base request is made (R154, R155, R159). The pick is an eligible offer, one enabled, not refused and of a voltage
within the policy, such that no eligible one stands earlier in the order of the preference; there is none exactly
where no offer is eligible (R154). -/
def Obligations.SupplyResultEffect : Prop :=
  (∀ (s : State) (r : CtrlResult) (rest : List CtrlResult) (o : Byte) (c : W16) (m : Bool),
    s.dev.le.results = r :: rest → r.payload = .supply o c m false → (s.dev.entry r.pos).releasing = false →
    s.dev.pcu.contract = .requested →
    (r.code = .done → ∃ d, exec .supplyResult s = .next { s with dev := d } ∧
      Settled { s.dev with
        le := { s.dev.le with results := rest }
        pcu := { s.dev.pcu with contract := .transition, transTimer := 0 }
        xp := bumped .contract s.dev.xp
        pub := { s.dev.pub with counters := s.dev.pub.counters.set .contract true } } d) ∧
    (∀ i, r.code = .refused ∨ r.code = .busyTimeout → s.dev.pcu.offer = some i →
      ∃ d, exec .supplyResult s = .next { s with dev := d } ∧
        d.pcu.refused = s.dev.pcu.refused ||| (1#8 <<< i.toNat) ∧ d.cm.table = s.dev.cm.table ∧ d.sc = s.dev.sc ∧
        d.mem = s.dev.mem) ∧
    (∀ (i : Byte) (u : Dev), r.code = .refused ∨ r.code = .busyTimeout → s.dev.pcu.offer = some i →
      u = { s.dev with
        le := { s.dev.le with results := rest }
        pcu := { s.dev.pcu with refused := s.dev.pcu.refused ||| (1#8 <<< i.toNat), owed := false } } →
      ∃ d, exec .supplyResult s = .next { s with dev := d } ∧ d.pcu.owed = false ∧
        (∀ n x, u.pick = some (n, x) → d.pcu.contract = .requested ∧ d.pcu.offer = some (BitVec.ofNat 8 n) ∧
          d.pcu.mismatch = (!s.dev.pcu.policy.met x) ∧ d.pcu.baseRequest = false ∧
          Joins .p1 .pcu (.supply (BitVec.ofNat 8 n) x.cur (!s.dev.pcu.policy.met x) false) s.dev d) ∧
        (u.pick = none → d.pcu.contract = .base ∧ d.pcu.offer = none ∧ d.pcu.mismatch = false ∧
          ((s.dev.pcu.live.supply = 1 ∨ s.dev.pcu.live.supply = 2) → u.pcu.refused.getLsbD 0 = false →
            d.pcu.baseRequest = true ∧ Joins .p1 .pcu (.supply 0 150 true true) s.dev d)))) ∧
  ∀ (u : Dev) (eligible : Nat → Offer → Prop),
    (∀ n x, eligible n x ↔ u.offers[n]? = some x ∧ u.pcu.live.enabled.getLsbD n = true ∧ u.pcu.refused.getLsbD n = false ∧
      u.pcu.policy.minVolt.toNat ≤ x.volt.toNat ∧ x.volt.toNat ≤ u.pcu.policy.maxVolt.toNat) →
    (u.pick = none → ∀ n x, ¬ eligible n x) ∧
    ∀ n x, u.pick = some (n, x) → eligible n x ∧ ∀ m y, eligible m y → u.pcu.policy.better m y n x = false

/-- COMMIT_RESULT of the batch of the taken posting, in COMMITTING. DONE: the node has set the batch aside. NO_REPLY:
COMMIT with the same tag is queued again (R146). DISCARD_RESULT: the result is taken and asks for nothing (R145,
R151). -/
def Obligations.CommitAndDiscardResults : Prop :=
  (∀ (s : State) (r : CtrlResult) (rest : List CtrlResult) (p : Posting),
      s.dev.le.results = r :: rest → r.payload = .commit p.tag → (s.dev.entry r.pos).releasing = false →
      s.dev.dtu.posting = some p → p.target = r.pos → p.committed = false → p.state = .committing →
      (r.code = .done → exec .commitResult s = .next { s with dev := Dev.offerAll { s.dev with
        le := { s.dev.le with results := rest }
        dtu := { s.dev.dtu with posting := some { p with committed := true } } } }) ∧
      (r.code = .noReply → Takes s.dev r.pos (Msg.new .dtu (.commit p.tag)) →
        exec .commitResult s = .next { s with dev := Dev.offerAll { s.dev with
          le := queued r.pos .dtu (.commit p.tag) { s.dev.le with results := rest } } })) ∧
  (∀ (s : State) (r : CtrlResult) (rest : List CtrlResult),
      s.dev.le.results = r :: rest → r.payload = .discard →
      exec .discardResult s = .next { s with dev := { s.dev with le := { s.dev.le with results := rest } } })

/-- STATUS_BLOCK_RESULT, DONE, for the block that is still the current one. Of an ACTIVE entry: it is the position's
delivered block and the block as sent (R165). Of an entry CONFIGURING whose session items and first apply are done:
the same, and the entry goes ACTIVE, announced, with NODE_ADDED where it was not announced; the cradle's takes the
dock from BRINGUP to DOCKED, the DOCK marker first (R7, R61, R87). -/
def Obligations.StatusBlockResultDone : Prop :=
  ∀ (s : State) (r : CtrlResult) (rest : List CtrlResult),
    s.dev.le.results = r :: rest → r.payload = .statusBlock s.dev.currentBlock → r.code = .done →
    (s.dev.entry r.pos).releasing = false →
    ((s.dev.entry r.pos).state = .active →
      ∃ d, exec .statusBlockResult s = .next { s with dev := d } ∧
        Settled { s.dev with
          le := { s.dev.le with results := rest }
          pcu := { s.dev.pcu with
            delivered := s.dev.pcu.delivered.set r.pos (some s.dev.currentBlock), blockSent := s.dev.currentBlock } } d) ∧
    ((s.dev.entry r.pos).state = .configuring → (s.dev.cm.configuring.get r.pos).sessionDone = true →
      (s.dev.cm.configuring.get r.pos).applyDone = true →
      ∃ d, exec .statusBlockResult s = .next { s with dev := d } ∧ CameActive r.pos s.dev d ∧
        d.pcu.delivered.get r.pos = some s.dev.currentBlock ∧ d.pcu.blockSent = s.dev.currentBlock ∧ d.mem = s.dev.mem)

/-- RELEASE_RESULT, any result. Of the pending release: the position is no longer waited for (R16). Of a position of the
release sequence with an entry ahead of it: RELEASE is queued to the next one up the chain, past those VACANT or in a
pending release, and the sequence waits for it (R99). Of position 1 in the release sequence, with no release pending:
the undock completes, every entry is VACANT and the dock RELEASED (R99, R89). -/
def Obligations.ReleaseResultEffect : Prop :=
  ∀ (s : State) (r : CtrlResult) (rest : List CtrlResult),
    s.dev.le.results = r :: rest → r.payload = .release →
    (∀ rel, r.sub ≠ .sc → s.dev.cm.release = some rel →
      ∃ d, exec .releaseResult s = .next { s with dev := d } ∧
        Settled { s.dev with
          le := { s.dev.le with results := rest }
          cm := { s.dev.cm with release := some { rel with waits := rel.waits.set r.pos false } } } d) ∧
    (∀ q j, r.sub = .sc → s.dev.sc.sequence = some q → q.step = .releasing r.pos → j.toNat < r.pos.toNat →
      (s.dev.entry j).isVacant = false → (s.dev.entry j).releasing = false →
      (∀ i, j.toNat < i.toNat → i.toNat < r.pos.toNat → (s.dev.entry i).isVacant = true ∨ (s.dev.entry i).releasing = true) →
      Takes s.dev j (Msg.new .sc .release) →
      ∃ d, exec .releaseResult s = .next { s with dev := d } ∧
        Settled { s.dev with
          le := queued j .sc .release { s.dev.le with results := rest }
          sc := { s.dev.sc with sequence := some { q with step := .releasing j } } } d) ∧
    (∀ q, r.sub = .sc → r.pos = .p1 → s.dev.sc.sequence = some q → q.step = .releasing .p1 → s.dev.sc.undock = none →
      s.dev.cm.release = none → s.dev.anyReleasing = false →
      ∃ d, exec .releaseResult s = .next { s with dev := d } ∧ d.sc.dock = .released ∧ d.sc.undock = none ∧
        d.sc.sequence = none ∧ d.mem = s.dev.mem ∧ ∀ k, (d.entry k).state = .vacant)

/-! ### The chain (chapters 1, 3, 4) -/

/-- RELEASE_COMPLETE of a release whose RELEASE messages have all returned. Every covered entry takes the VACANT
values, its link counters are 0 and its input session closed, every other entry is as it was, and no release is
pending; for each, in chain order, a RELEASE_ALL marker where keys were down and NODE_REMOVED where it was announced
are staged, or dropped and counted where staging is full (R18, R127, R129). Behind the cradle, with no undock or
release sequence: discovery goes where the cause puts it, DEFERRED with its timer and retry count 0, WAITING, or
FAULTED or GIVEN_UP, or stays as it stands where the frontier lies ahead of the release, and behind a fault confirmed
on the watch, where it is FAULTED already (R64, R69, R70); a chain that is SHUT stays SHUT (R72, R73; the model follows
them against the table of R64, log 61); while the release sequence runs, discovery stays as it stands (R64). DOCKED or
RELEASING, an answer held through the release is taken at its position, PROBED (R12). A release that covers the cradle, outside an undock, ends the session: UNDOCKED, or a fresh
dock with the sense line active (R90, R96); in an undock the dock takes its following state, RELEASED, UNDOCKED, or,
the part RUNNING, a fresh dock in BRINGUP, by sense only with the line active (R89). The UNDOCK marker of an announced
session is the last one (R89). The sense level is the one kept from the last sample (log 56). -/
def Obligations.ReleaseCompleteResult : Prop :=
  ∀ (s : State) (r : Release), s.dev.cm.release = some r → r.isWaiting = false →
    ∀ frontier : Nat, frontier = (match Pos.all.find? (fun k => (s.dev.entry k).isVacant || (s.dev.entry k).releasing ||
        (s.dev.entry k).isReturned) with
      | some k => k.toNat
      | none => 7) →
    ((∀ k i, r.after ≠ .take k i) → s.dev.sc.undock = none → s.dev.sc.sequence = none →
      (s.dev.entry .p1).releasing = false →
      ∃ d, exec .releaseComplete s = .next { s with dev := d } ∧ d.cm.release = none ∧ d.sc = s.dev.sc ∧ d.mem = s.dev.mem ∧
        (∀ k, (s.dev.entry k).releasing = true → d.entry k = Entry.vacant ∧ d.le.miss.get k = 0 ∧ d.le.winErr.get k = 0 ∧
          d.le.cumErr.get k = 0 ∧ d.le.degraded.get k = false ∧ (d.ic.pos.get k).isOpen = false) ∧
        (∀ k, (s.dev.entry k).releasing = false → d.entry k = s.dev.entry k) ∧
        (r.after = .keep ∨ r.after = .faultTimer ∨ frontier < r.first.toNat ∨ s.dev.cm.discovery = .shut →
          d.cm.discovery = s.dev.cm.discovery) ∧
        Staged (leavingCovered s.dev) s.dev d ∧
        (r.after = .deferred → r.first.toNat ≤ frontier → s.dev.cm.discovery ≠ .shut →
          d.cm.discovery = .deferred ∧ d.cm.frontierTimer = 0 ∧ d.cm.retry = 0) ∧
        (r.after = .waiting → r.first.toNat ≤ frontier → s.dev.cm.discovery ≠ .shut → d.cm.discovery = .waiting) ∧
        (r.after = .faulted → r.first.toNat ≤ frontier → s.dev.cm.discovery ≠ .shut → d.cm.frontierTimer = 0 ∧
          d.cm.discovery = (if s.dev.cm.isRetry = true ∧ 8 ≤ s.dev.cm.retry then .givenUp else .faulted))) ∧
    ((∀ k i, r.after ≠ .take k i) → s.dev.sc.undock = none → s.dev.sc.sequence ≠ none →
      (s.dev.entry .p1).releasing = false →
      ∃ d, exec .releaseComplete s = .next { s with dev := d } ∧ d.cm.release = none ∧ d.sc = s.dev.sc ∧ d.mem = s.dev.mem ∧
        d.cm.discovery = s.dev.cm.discovery ∧ Staged (leavingCovered s.dev) s.dev d ∧
        (∀ k, (s.dev.entry k).releasing = true → d.entry k = Entry.vacant) ∧
        (∀ k, (s.dev.entry k).releasing = false → d.entry k = s.dev.entry k)) ∧
    (∀ k i, r.after = .take k i → (s.dev.entry k).releasing = true → k ≠ .p1 → s.dev.sc.undock = none →
      (s.dev.entry .p1).releasing = false → s.dev.sc.dock = .docked ∨ s.dev.sc.dock = .releasing →
      ∃ d, exec .releaseComplete s = .next { s with dev := d } ∧ d.cm.release = none ∧ (d.entry k).state = .probed ∧
        (d.entry k).identity = i ∧ (d.entry k).returned = false ∧ d.le.next.get k = true ∧ d.mem = s.dev.mem ∧
        Staged (leavingCovered s.dev) s.dev d ∧
        (∀ j, j ≠ k → (s.dev.entry j).releasing = true → d.entry j = Entry.vacant) ∧
        ∀ j, (s.dev.entry j).releasing = false → d.entry j = s.dev.entry j) ∧
    ((s.dev.entry .p1).releasing = true → s.dev.sc.undock = none → s.dev.xp.part = .running →
      (s.dev.sc.dock = .docked ∨ s.dev.sc.dock = .holding) →
      ∃ d, exec .releaseComplete s = .next { s with dev := d } ∧ d.cm.release = none ∧ d.cm.discovery = .stopped ∧
        d.sc.announced = false ∧ d.mem = s.dev.mem ∧ Staged (leavingCovered s.dev ++ undockMarker s.dev .expired) s.dev d ∧
        (∀ k, (s.dev.entry k).releasing = true → d.entry k = Entry.vacant) ∧
        (∀ k, (s.dev.entry k).releasing = false → d.entry k = s.dev.entry k) ∧
        (s.dev.sc.sense ≠ some true → d.sc.dock = .undocked ∧ d.sc.session = s.dev.sc.session) ∧
        (s.dev.sc.sense = some true → d.sc.dock = .bringup ∧ d.sc.session = nextSession s.dev.sc.session)) ∧
    (∀ u, s.dev.sc.undock = some u → (u.following = .released ∨ u.following = .undocked) →
      ∃ d, exec .releaseComplete s = .next { s with dev := d } ∧ d.cm.release = none ∧ d.sc.undock = none ∧
        d.sc.announced = false ∧ d.sc.dock = (if u.following = .released then .released else .undocked) ∧ d.mem = s.dev.mem ∧
        Staged (leavingCovered s.dev ++ (u.reason.map (undockMarker s.dev)).getD []) s.dev d ∧
        (∀ k, (s.dev.entry k).releasing = true → d.entry k = Entry.vacant) ∧
        ∀ k, (s.dev.entry k).releasing = false → d.entry k = s.dev.entry k) ∧
    (∀ u, s.dev.sc.undock = some u → s.dev.xp.part = .running → (u.following = .bringup ∨ u.following = .bySense) →
      ∃ d, exec .releaseComplete s = .next { s with dev := d } ∧ d.cm.release = none ∧ d.sc.undock = none ∧
        d.sc.announced = false ∧ d.mem = s.dev.mem ∧
        Staged (leavingCovered s.dev ++ (u.reason.map (undockMarker s.dev)).getD []) s.dev d ∧
        (u.following = .bringup ∨ s.dev.sc.sense = some true →
          d.sc.dock = .bringup ∧ d.sc.session = nextSession s.dev.sc.session) ∧
        (u.following = .bySense → s.dev.sc.sense ≠ some true → d.sc.dock = .undocked ∧ d.sc.session = s.dev.sc.session) ∧
        (∀ k, (s.dev.entry k).releasing = true → d.entry k = Entry.vacant) ∧
        ∀ k, (s.dev.entry k).releasing = false → d.entry k = s.dev.entry k)

/-- RESUME_TIMER in BRINGUP or DOCKED: RESUME to the lowest LOST entry is queued and the timer returns to 0 (R14). -/
def Obligations.ResumeTimerResult : Prop :=
  ∀ (s : State) (k : Pos), s.dev.lowestLost = some k → 100 ≤ s.dev.cm.resumeTimer → s.dev.sc.undock = none →
    (s.dev.sc.dock = .bringup ∨ s.dev.sc.dock = .docked) → (s.dev.entry k).releasing = false →
    s.dev.resumeOut k .cm = false → s.dev.resumeOut k .sc = false →
    Takes s.dev k (Msg.new .cm (.resume s.dev.sc.session)) →
    exec .resumeTimer s = .next { s with dev := { s.dev with
      le := queued k .cm (.resume s.dev.sc.session) s.dev.le
      cm := { s.dev.cm with resumeTimer := 0, resumeNow := false } } }

/-- LOST_EXPIRY while DOCKED, of the last entry, when its age has reached the hold-over limit, with nothing else under way: the
entry is VACANT at once and every other entry is as it was; discovery is DEFERRED with its timer and retry count 0, but as
it stands where the frontier lies ahead of the entry (R15, R16, R18, R64). A chain that is SHUT stays SHUT (R73; the model
follows it against the table of R64, log 61). -/
def Obligations.LostExpiryResult : Prop :=
  ∀ (s : State) (k : Pos) (t : W32), (s.dev.entry k).state = .lost → (s.dev.entry k).lostAt = some t →
    s.dev.sc.holdLimit.toNat ≤ (s.dev.le.stamp - t).toNat → k ≠ .p1 → s.dev.sc.dock = .docked → s.dev.sc.undock = none →
    s.dev.sc.sequence = none → s.dev.anyReleasing = false → s.dev.cm.release = none → s.dev.cm.discovery ≠ .locating →
    (∀ j, k.toNat < j.toNat → (s.dev.entry j).isVacant = true) →
    ∃ d, exec (.lostExpiry k) s = .next { s with dev := d } ∧ d.entry k = Entry.vacant ∧
      (k.toNat ≤ s.dev.frontier → s.dev.cm.discovery ≠ .shut →
        d.cm.discovery = .deferred ∧ d.cm.frontierTimer = 0 ∧ d.cm.retry = 0) ∧
      (s.dev.frontier < k.toNat ∨ s.dev.cm.discovery = .shut → d.cm.discovery = s.dev.cm.discovery) ∧ d.cm.release = none ∧ d.sc = s.dev.sc ∧ d.mem = s.dev.mem ∧
      ∀ j, j ≠ k → d.entry j = s.dev.entry j

/-- DISCOVERY_STEP from WAITING, while DOCKED with no undock, loss or release and the node ahead of the frontier in
use: SEGMENT DIAG is queued to that node and discovery is POWERING with the step timer 0; where that node has no
switched port, or the chain is full, discovery is COMPLETE with no re-check (R50), and a returned position at the
frontier is VACANT first, with every entry behind it, as at an end of chain that an observation finds (R12; the
model's reading, log 59). FRONTIER_TIMER at 2000, while DOCKED with no undock, loss or release and the node ahead in
use: a step begins with SEGMENT DIAG to it. From COMPLETE with a re-check it is no retry; from FAULTED it is a retry
and the count advances by 1; from DEFERRED the count is 0 (R62, R63, R64). -/
def Obligations.DiscoveryCommands : Prop :=
  (∀ (s : State) (j k : Pos), s.dev.cm.discovery = .waiting → s.dev.sc.dock = .docked → s.dev.sc.undock = none →
      s.dev.anyLost = false → s.dev.anyReleasing = false → s.dev.bringOnOut = false → s.dev.frontierPos = some k →
      s.dev.ahead = some j → (s.dev.entry j).inUse = true → (s.dev.entry j).seg ≠ .none →
      Takes s.dev j (Msg.new .cm (.segment .diag .stepDiag)) →
      ∃ d, exec .discoveryStep s = .next { s with dev := d } ∧
        Settled { s.dev with
          le := queued j .cm (.segment .diag .stepDiag) s.dev.le
          cm := { s.dev.cm with discovery := .powering, codeRead := none, offWait := false, stepTimer := 0 } } d) ∧
  (∀ (s : State) (j : Pos), s.dev.cm.discovery = .waiting → s.dev.sc.dock = .docked → s.dev.sc.undock = none →
      s.dev.anyLost = false → s.dev.anyReleasing = false → s.dev.bringOnOut = false → s.dev.ahead = some j →
      (s.dev.entry j).inUse = true → ((s.dev.entry j).seg = .none ∨ s.dev.frontierPos = none) →
      ((∀ k, s.dev.frontierPos = some k → (s.dev.entry k).isReturned = false) →
        ∃ d, exec .discoveryStep s = .next { s with dev := d } ∧
          Settled { s.dev with cm := completed false s.dev.cm } d) ∧
      (∀ k, s.dev.frontierPos = some k → (s.dev.entry k).isReturned = true → s.dev.cm.release = none →
        ∃ d, exec .discoveryStep s = .next { s with dev := d } ∧ d.cm.discovery = .complete ∧ d.cm.recheck = false ∧
          d.cm.release = none ∧ VacantFrom k s.dev d ∧ d.sc = s.dev.sc ∧ d.mem = s.dev.mem)) ∧
  (∀ (s : State) (j k : Pos), 2000 ≤ s.dev.cm.frontierTimer → s.dev.sc.dock = .docked → s.dev.sc.undock = none →
      s.dev.anyLost = false → s.dev.anyReleasing = false → s.dev.bringOnOut = false → s.dev.frontierPos = some k →
      s.dev.ahead = some j → (s.dev.entry j).inUse = true → (s.dev.entry j).seg ≠ .none →
      Takes s.dev j (Msg.new .cm (.segment .diag .stepDiag)) →
      ∀ (isRetry : Bool) (retry : Nat),
        ((s.dev.cm.discovery = .complete ∧ s.dev.cm.recheck = true ∧ isRetry = false ∧ retry = s.dev.cm.retry) ∨
          (s.dev.cm.discovery = .faulted ∧ isRetry = true ∧ retry = s.dev.cm.retry + 1) ∨
          (s.dev.cm.discovery = .deferred ∧ isRetry = false ∧ retry = 0)) →
        exec .frontierTimer s = .next { s with dev := { s.dev with
          le := queued j .cm (.segment .diag .stepDiag) s.dev.le
          cm := { s.dev.cm with
            discovery := .powering, isRetry := isRetry, retry := retry, codeRead := none, offWait := false
            stepTimer := 0 } } })

/-- The codes that end a step, and those confirmed on the watch. OBSERVATION_END while DOCKED, with no undock or loss;
the observation is that of the segment at the frontier as it stands, also where a late PROBE answer has moved the
frontier on (log 60). CLEAN after 20 superframes: PROBE of the frontier is queued and discovery is PROBING with the step
timer 0. NO_LOAD after 20: SEGMENT OFF is queued to the node ahead, and a returned frontier is VACANT first, with what
is behind it (R52, R12). A partial code at a frontier that is not a returned position: the fault stands, localized, the
segment ahead is FAULT, and discovery FAULTED or, after the eighth retry, GIVEN_UP (R52, R63, R69); a returned frontier
is VACANT first, here with no release sequence under way (R12). A concealed code: in the initial pass locate begins,
with no entry behind the cradle left (R74, R77); after it UNLOCATED stands for the code, not localized, the segment is
FAULT and discovery FAULTED or GIVEN_UP, with one record but where a retry reads the code again (R71, R75). ANSWER with
a sense code, at an entry in use while DOCKED. A critical code, on the watch, in an observation or about a segment in ON
or DIAG during locate, which it ends ABANDONED, shuts the chain: the fault stands, localized and recorded, discovery is
SHUT, SEGMENT OFF goes to position 1 and every entry behind it is VACANT (R72, R79). The fourth report in a row of a
code on the watch: a partial one stands as a fault, recorded, the segment FAULT with SEGMENT OFF to the node ahead,
discovery FAULTED with retry count and timer 0, and the entries behind the fault VACANT (R68, R70); a concealed one
begins locate in the initial pass (R74), and after it UNLOCATED stands, with every entry and segment state left as it
was: raised anew it is recorded and not localized, and where UNLOCATED stands for that code already it stays as it is
(R75). -/
def Obligations.ObservationEndResult : Prop :=
  (∀ (s : State) (k : Pos), s.dev.frontierPos = some k → s.dev.cm.discovery = .observing → s.dev.cm.offWait = false →
    s.dev.sc.dock = .docked → s.dev.sc.undock = none → s.dev.anyLost = false →
    (s.dev.cm.codeRead = some .clean → 20 ≤ s.dev.cm.stepTimer → s.dev.probeOut k .cm = false →
      Takes s.dev k (Msg.new .cm .probe) →
      ∃ d, exec .observationEnd s = .next { s with dev := d } ∧
        Settled { s.dev with
          le := queued k .cm .probe s.dev.le
          cm := { s.dev.cm with discovery := .probing, stepTimer := 0, codeRead := none } } d) ∧
    (∀ c j, s.dev.cm.codeRead = some c → c.sort = .partial_ → k.prev? = some j → (s.dev.entry k).isReturned = false →
      ∃ d, exec .observationEnd s = .next { s with dev := d } ∧
        (d.cm.segs.get k).standing = some { code := c.fault, sense := some c, localized := true } ∧
        (d.entry j).seg = .fault ∧
        d.cm.discovery = (if s.dev.cm.isRetry = true ∧ 8 ≤ s.dev.cm.retry then .givenUp else .faulted)) ∧
    (∀ j, s.dev.cm.codeRead = some .noLoad → 20 ≤ s.dev.cm.stepTimer → k.prev? = some j →
      ((s.dev.entry k).isReturned = false → Takes s.dev j (Msg.new .cm (.segment .off .endOff)) →
        ∃ d, exec .observationEnd s = .next { s with dev := d } ∧
          Settled { s.dev with
            le := queued j .cm (.segment .off .endOff) s.dev.le
            cm := { s.dev.cm with offWait := true } } d) ∧
      ((s.dev.entry k).isReturned = true → s.dev.anyReleasing = false → s.dev.cm.release = none →
        ∃ d, exec .observationEnd s = .next { s with dev := d } ∧ d.cm.discovery = .observing ∧ d.cm.offWait = true ∧
          d.cm.release = none ∧ VacantFrom k s.dev d ∧ d.sc = s.dev.sc ∧ d.mem = s.dev.mem ∧
          Joins j .cm (.segment .off .endOff) s.dev d)) ∧
    (∀ c j, s.dev.cm.codeRead = some c → c.sort = .partial_ ∨ (c.sort = .concealed ∧ s.dev.cm.initialPass = false) →
      k.prev? = some j → (s.dev.entry k).isReturned = true → s.dev.anyReleasing = false → s.dev.cm.release = none →
      s.dev.sc.sequence = none →
      ∃ d, exec .observationEnd s = .next { s with dev := d } ∧ (d.entry j).seg = .fault ∧ d.cm.release = none ∧
        (∀ i, k.toNat ≤ i.toNat → (d.entry i).state = .vacant) ∧
        (∀ i, i.toNat < k.toNat → i ≠ j → d.entry i = s.dev.entry i) ∧
        d.cm.discovery = (if s.dev.cm.isRetry = true ∧ 8 ≤ s.dev.cm.retry then .givenUp else .faulted)) ∧
    (∀ c j, s.dev.cm.codeRead = some c → c.sort = .concealed → k.prev? = some j →
      (s.dev.cm.initialPass = true → s.dev.anyReleasing = false → s.dev.cm.release = none →
        ∃ d, exec .observationEnd s = .next { s with dev := d } ∧ LocateBegun .automatic (some c) s.dev d ∧
          d.entry .p1 = s.dev.entry .p1 ∧ d.sc = s.dev.sc ∧ d.mem = s.dev.mem) ∧
      (s.dev.cm.initialPass = false → (s.dev.entry k).isReturned = false →
        ∃ d, exec .observationEnd s = .next { s with dev := d } ∧
          (d.cm.segs.get k).standing = some { code := .unlocated, sense := some c, localized := false } ∧
          (d.entry j).seg = .fault ∧ (∀ i, i ≠ j → d.entry i = s.dev.entry i) ∧ Joins j .cm (.segment .off .faultOff) s.dev d ∧
          d.cm.discovery = (if s.dev.cm.isRetry = true ∧ 8 ≤ s.dev.cm.retry then .givenUp else .faulted) ∧
          (s.dev.cm.isRetry = false ∨ s.dev.standsFor k c = false →
            nextRecord s.dev .unlocated .segment (posByte k) false c.fault ∈ d.cm.log.records)))) ∧
  ∀ (s : State) (k j : Pos) (bs : List Byte) (a : Answer) (b : Byte) (c : SenseCode), k.next? = some j →
    s.dev.le.windows.get k = true → s.dev.goodAnswer k (some bs) = some a → s.dev.inFlight k false = none →
    a.sense = some b → SenseCode.ofCode? b = some c → (s.dev.entry k).isAway = false → (s.dev.entry k).isVacant = false →
    s.dev.sc.dock = .docked → s.dev.sc.undock = none → s.dev.sc.sequence = none → s.dev.anyReleasing = false →
    s.dev.cm.release = none → s.dev.cm.discovery ≠ .shut →
    ∀ watched : Prop, (watched ↔ (s.dev.entry k).seg = .on ∧ s.dev.cm.discovery.isStep = false ∧
      s.dev.cm.discovery ≠ .locating) →
    (c.sort = .critical →
      watched ∨ (s.dev.cm.discovery = .observing ∧ s.dev.frontier = j.toNat ∧ s.dev.cm.offWait = false) ∨
        (s.dev.cm.discovery = .locating ∧ ((s.dev.entry k).seg = .on ∨ (s.dev.entry k).seg = .diag)) →
      ∃ d, exec (.answer (.answer k) (some bs)) s = .next { s with dev := d } ∧ d.cm.discovery = .shut ∧ d.cm.shut = some j ∧
        d.cm.initialPass = false ∧
        (s.dev.cm.discovery = .locating → s.dev.cm.locate.step ≠ .idle →
          d.cm.locate.step = .idle ∧ d.cm.locate.result = .abandoned) ∧
        (d.cm.segs.get j).standing = some { code := c.fault, sense := some c, localized := true } ∧
        (d.entry .p1).state = (s.dev.entry .p1).state ∧ (d.entry .p1).seg = (if j = .p2 then .fault else .off) ∧
        (∀ i, i ≠ .p1 → (d.entry i).state = .vacant) ∧ Joins .p1 .cm (.segment .off .shutOff) s.dev d ∧
        nextRecord s.dev c.fault .segment (posByte j) true .none ∈ d.cm.log.records ∧ d.sc = s.dev.sc ∧ d.mem = s.dev.mem) ∧
    (watched → 3 ≤ (s.dev.cm.segs.get j).confirm →
      (c.sort = .partial_ →
        ∃ d, exec (.answer (.answer k) (some bs)) s = .next { s with dev := d } ∧ d.cm.discovery = .faulted ∧
          d.cm.retry = 0 ∧ d.cm.frontierTimer = 0 ∧ d.cm.initialPass = false ∧ d.cm.release = none ∧
          d.cm.segs.get j = { s.dev.cm.segs.get j with
            standing := some { code := c.fault, sense := some c, localized := true }
            confirm := 0, cleanRun := 0, last := b } ∧
          (d.entry k).seg = .fault ∧ (d.entry k).state = (s.dev.entry k).state ∧
          ((s.dev.entry j).isVacant = false → ∀ i, j.toNat ≤ i.toNat → (d.entry i).state = .vacant) ∧
          (∀ i, i ≠ k → i.toNat < j.toNat ∨ (s.dev.entry j).isVacant = true → d.entry i = s.dev.entry i) ∧
          Joins k .cm (.segment .off .faultOff) s.dev d ∧
          nextRecord s.dev c.fault .segment (posByte j) true .none ∈ d.cm.log.records ∧
          d.sc = s.dev.sc ∧ d.mem = s.dev.mem) ∧
      (c.sort = .concealed → s.dev.cm.initialPass = true →
        ∃ d, exec (.answer (.answer k) (some bs)) s = .next { s with dev := d } ∧ LocateBegun .automatic (some c) s.dev d ∧
          d.sc = s.dev.sc ∧ d.mem = s.dev.mem) ∧
      (c.sort = .concealed → s.dev.cm.initialPass = false →
        ∃ (d : Dev) (x : Standing), exec (.answer (.answer k) (some bs)) s = .next { s with dev := d } ∧
          (d.cm.segs.get j).standing = some x ∧ x.code = .unlocated ∧ x.sense = some c ∧
          d.cm.discovery = s.dev.cm.discovery ∧ d.cm.table = s.dev.cm.table ∧
          (s.dev.unlocatedStands j = false ∨ s.dev.standsFor j c = false → x.localized = false ∧
            nextRecord s.dev .unlocated .segment (posByte j) false c.fault ∈ d.cm.log.records) ∧
          (s.dev.unlocatedStands j = true → s.dev.standsFor j c = true → (s.dev.cm.segs.get j).standing = some x) ∧
          d.sc = s.dev.sc ∧ d.mem = s.dev.mem))

/-- SETTLING_END 100 superframes after the OFF of locate returned, with entry 1 in use (what the model waits for is log 94):
locate is POWERING at segment 2, and SEGMENT DIAG is queued to position 1 (R77, R78). LOCATE_OBSERVATION_END while DOCKED, with no undock or loss.
CLEAN after 100 superframes: PROBE of the segment's position is queued and locate is PROBING. A concealed code read:
locate ends LOCALIZED, the fault stands localized at that segment (R78). -/
def Obligations.LocateCommands : Prop :=
  (∀ s : State, s.dev.cm.discovery = .locating → s.dev.cm.locate.step = .settling → s.dev.cm.locate.offDone = true →
      100 ≤ s.dev.cm.locate.timer → s.dev.sc.dock = .docked → s.dev.sc.undock = none → s.dev.anyLost = false →
      s.dev.anyReleasing = false → (s.dev.entry .p1).inUse = true → (s.dev.entry .p1).seg ≠ .none →
      Takes s.dev .p1 (Msg.new .cm (.segment .diag .locateDiag)) →
      ∃ d, exec .settlingEnd s = .next { s with dev := d } ∧
        Settled { s.dev with
          le := queued .p1 .cm (.segment .diag .locateDiag) s.dev.le
          cm := { s.dev.cm with
            codeRead := none, locate := { s.dev.cm.locate with step := .powering, seg := .p2, timer := 0 } } } d) ∧
  (∀ (s : State) (k : Pos), s.dev.cm.discovery = .locating → s.dev.cm.locate.step = .observing → s.dev.cm.locate.seg = k →
      s.dev.sc.dock = .docked → s.dev.sc.undock = none → s.dev.anyLost = false →
      (s.dev.cm.codeRead = some .clean → 100 ≤ s.dev.cm.locate.timer → s.dev.probeOut k .cm = false →
        Takes s.dev k (Msg.new .cm .probe) →
        ∃ d, exec .locateObservationEnd s = .next { s with dev := d } ∧
          Settled { s.dev with
            le := queued k .cm .probe s.dev.le
            cm := { s.dev.cm with codeRead := none, locate := { s.dev.cm.locate with step := .probing, timer := 0 } } } d) ∧
      (∀ c, s.dev.cm.codeRead = some c → c.sort = .concealed →
        ∃ d, exec .locateObservationEnd s = .next { s with dev := d } ∧ d.cm.locate.result = .localized ∧
          d.cm.locate.step = .idle ∧
          (d.cm.segs.get k).standing = some { code := c.fault, sense := some c, localized := true }))

/-! ### The session (chapter 5) -/

/-- DOCK_SENSE: R84. While RUNNING or STOPPING one sample is taken in each superframe, in every dock state, and it is kept with
its run count: a sample equal to the kept level advances the run count by 1, saturating at 65535; one that differs replaces
it with run count 1, and so does the first. Outside UNDOCKED and DETECTING a sample leaves the dock state. -/
def Obligations.DockSenseSamples : Prop :=
  State.reset.dev.sc.sense = none ∧
  (∀ s t : State, s.dev.working = true → exec .superframe s = .next t → t.dev.sc.sampled = false) ∧
  ∀ (s : State) (a : Bool),
    (s.dev.working = false ∨ s.dev.sc.sampled = true →
      ∃ d, exec (.dockSense a) s = .next { s with dev := d } ∧ d.sc.sense = s.dev.sc.sense ∧
        d.sc.senseRun = s.dev.sc.senseRun) ∧
    (s.dev.working = true → s.dev.sc.sampled = false → ∀ n : W16,
      (s.dev.sc.sense = some a → s.dev.sc.senseRun ≠ 0xFFFF → n = s.dev.sc.senseRun + 1) →
      (s.dev.sc.sense = some a → s.dev.sc.senseRun = 0xFFFF → n = 0xFFFF) → (s.dev.sc.sense ≠ some a → n = 1) →
      ∃ d, exec (.dockSense a) s = .next { s with dev := d } ∧ d.sc.sampled = true ∧ d.sc.sense = some a ∧
        d.sc.senseRun = n ∧ (s.dev.sc.dock ≠ .undocked → s.dev.sc.dock ≠ .detecting → d.sc.dock = s.dev.sc.dock))

/-- The dock follows the sense line. DOCK_SENSE: in UNDOCKED an active sample moves it to DETECTING, in DETECTING an
inactive one back (R85), and DOCK advances by 1 (R102); in every other case the sample, level and run count are all
that changes. That DOCK_SENSE outside RUNNING and STOPPING, or a second time in a superframe, changes nothing is the
model's choice (logs 1 and 38). A fresh dock begins from DETECTING when the sense line has been active for 50
superframes (SENSE_RUN_REACHED) and from RELEASED when the released timer has reached 10000 with the sense line active
(RELEASED_TIMER): the session number advances (FFFFH is followed by 0001H), the dock is BRINGUP, PROBE(1) is queued,
segment records, shut flag and refused set are cleared and the initial pass flag is set (R85, R86, R87, R101). The
sense line inactive for 50 superframes: in RELEASED the dock goes to UNDOCKED (R101); in BRINGUP the bring-up is given
up: UNDOCKED with the session number kept, no UNDOCK marker, every entry VACANT with its own markers alone, discovery
stopped and nothing left in the queue of position 1 (R88, R89, R43). The sense level is the one kept from the last
sample taken (log 56). -/
def Obligations.DockChangesBySense : Prop :=
  (∀ (s : State) (a : Bool),
    (s.dev.working = false ∨ s.dev.sc.sampled = true → exec (.dockSense a) s = .next s) ∧
    (s.dev.working = true → s.dev.sc.sampled = false → ∀ n : W16,
      (s.dev.sc.sense = some a → s.dev.sc.senseRun ≠ 0xFFFF → n = s.dev.sc.senseRun + 1) →
      (s.dev.sc.sense = some a → s.dev.sc.senseRun = 0xFFFF → n = 0xFFFF) → (s.dev.sc.sense ≠ some a → n = 1) →
      (∀ k : DockState, (s.dev.sc.dock = .undocked ∧ a = true ∧ k = .detecting) ∨
          (s.dev.sc.dock = .detecting ∧ a = false ∧ k = .undocked) →
        exec (.dockSense a) s = .next { s with dev := Dev.offerAll { s.dev with
          sc := { s.dev.sc with sampled := true, sense := some a, senseRun := n, dock := k }
          xp := bumped .dock s.dev.xp
          pub := { s.dev.pub with dockState := true, counters := s.dev.pub.counters.set .dock true } } }) ∧
      ((s.dev.sc.dock = .undocked → a = false) → (s.dev.sc.dock = .detecting → a = true) →
        exec (.dockSense a) s = .next { s with dev := Dev.offerAll { s.dev with
          sc := { s.dev.sc with sampled := true, sense := some a, senseRun := n } } }))) ∧
  (∀ (s : State) (c : Instr) (n : W16), s.dev.xp.part = .running → s.dev.sc.sense = some true →
      ((c = .senseRunReached ∧ s.dev.sc.dock = .detecting ∧ 50 ≤ s.dev.sc.senseRun.toNat) ∨
        (c = .releasedTimer ∧ s.dev.sc.dock = .released ∧ 10000 ≤ s.dev.sc.releasedTimer)) →
      (s.dev.sc.session = 0xFFFF → n = 1) → (s.dev.sc.session ≠ 0xFFFF → n = s.dev.sc.session + 1) →
      Takes s.dev .p1 (Msg.new .sc .probe) →
      ∃ d, exec c s = .next { s with dev := d } ∧
        Settled { s.dev with
          sc := { s.dev.sc with
            session := n, announced := false, noCradle := false, bringupTimer := 0, probeAnswered := false, dock := .bringup
            probeTimer := 0 }
          le := queued .p1 .sc .probe s.dev.le
          cm := { s.dev.cm with segs := Per6.const SegRecord.init, shut := none, initialPass := true }
          pcu := { s.dev.pcu with refused := 0 }
          xp := bumped .dock s.dev.xp
          pub := { s.dev.pub with
            session := true, dockState := true, counters := s.dev.pub.counters.set .dock true } } d) ∧
  (∀ s : State, s.dev.working = true → s.dev.sc.sense = some false → 50 ≤ s.dev.sc.senseRun.toNat →
      s.dev.sc.dock = .released →
      ∃ d, exec .senseRunReached s = .next { s with dev := d } ∧
        Settled { s.dev with
          sc := { s.dev.sc with dock := .undocked }
          xp := bumped .dock s.dev.xp
          pub := { s.dev.pub with dockState := true, counters := s.dev.pub.counters.set .dock true } } d) ∧
  (∀ s : State, s.dev.working = true → s.dev.sc.sense = some false → 50 ≤ s.dev.sc.senseRun.toNat →
      s.dev.sc.dock = .bringup → s.dev.sc.undock = none → s.dev.cm.release = none → s.dev.anyReleasing = false →
      ∃ d, exec .senseRunReached s = .next { s with dev := d } ∧ d.sc.dock = .undocked ∧ d.sc.undock = none ∧
        d.sc.session = s.dev.sc.session ∧ d.sc.announced = false ∧ d.cm.discovery = .stopped ∧
        (∀ k, (d.entry k).state = .vacant) ∧ d.mem = s.dev.mem ∧
        (s.dev.last = 0 ∨ (s.dev.entry .p1).isVacant = false → d.queue .p1 = []) ∧
        (s.dev.last ≠ 0 → Staged (leavingAll s.dev) s.dev d))

/-- In BRINGUP with no undock pending. BRINGUP_PROBE, entry 1 VACANT and no PROBE(1) of its own out, 10 superframes after the
last: PROBE(1) is queued. NO_CRADLE, at 500 superframes with no PROBE(1) answered: NO_CRADLE is logged once, with
position 1, and nothing else changes (R87, R80). -/
def Obligations.BringupCommands : Prop :=
  ∀ s : State, s.dev.sc.dock = .bringup → s.dev.sc.undock = none →
    (10 ≤ s.dev.sc.probeTimer → (s.dev.entry .p1).isVacant = true → s.dev.probeOut .p1 .sc = false →
      Takes s.dev .p1 (Msg.new .sc .probe) →
      exec .bringupProbe s = .next { s with dev := { s.dev with
        le := queued .p1 .sc .probe s.dev.le, sc := { s.dev.sc with probeTimer := 0 } } }) ∧
    (500 ≤ s.dev.sc.bringupTimer → s.dev.sc.probeAnswered = false → s.dev.sc.noCradle = false →
      ∃ (records : List FaultRecord) (slots : List Sec),
        exec .noCradle s = .next { s with dev := Dev.offerAll { s.dev with
          sc := { s.dev.sc with noCradle := true }
          cm := { s.dev.cm with
            log := { s.dev.cm.log with records := records, total := s.dev.cm.log.total + 1 } }
          pub := { s.dev.pub with slots := slots } } } ∧
        ({ number := s.dev.cm.log.total + 1, code := .noCradle, placeKind := .position, place := 1, localized := false
           detail := .none, session := s.dev.sc.session, stamp := s.dev.le.stamp } : FaultRecord) ∈ records)

/-- In HOLDING with no undock pending. HOLD_TICK at 10: RESUME(1) then PROBE(1) are queued and the tick timer is 0
(R92). HOLD_OVER_EXPIRY at the limit, with no release pending: the session ends at once, every entry is VACANT, its
RELEASE_ALL and NODE_REMOVED markers staged in chain order and UNDOCK behind them, and discovery stopped; with the
sense line not active the dock goes to UNDOCKED, with it active and the part RUNNING a fresh dock begins in BRINGUP
(R96, R89, R18). The sense level is the one kept from the last sample taken (log 56). -/
def Obligations.HoldingCommands : Prop :=
  ∀ s : State, s.dev.sc.dock = .holding → s.dev.sc.undock = none →
    (10 ≤ s.dev.sc.tickTimer → s.dev.resumeOut .p1 .sc = false → s.dev.probeOut .p1 .sc = false →
      (s.dev.entry .p1).releasing = false → (s.dev.queue .p1).length ≤ 6 →
      exec .holdTick s = .next { s with dev := { s.dev with
        sc := { s.dev.sc with tickTimer := 0 }
        le := queued .p1 .sc .probe (queued .p1 .sc (.resume s.dev.sc.session) s.dev.le) } }) ∧
    (s.dev.sc.holdLimit.toNat ≤ s.dev.sc.holdTimer → s.dev.anyReleasing = false → s.dev.cm.release = none →
      ∃ d, exec .holdOverExpiry s = .next { s with dev := d } ∧ (∀ k, (d.entry k).state = .vacant) ∧
        d.cm.discovery = .stopped ∧ d.sc.undock = none ∧ d.sc.announced = false ∧ d.mem = s.dev.mem ∧
        (s.dev.last ≠ 0 → Staged (leavingAll s.dev ++ undockMarker s.dev .expired) s.dev d) ∧
        (s.dev.sc.sense ≠ some true → d.sc.dock = .undocked ∧ d.sc.session = s.dev.sc.session) ∧
        (s.dev.sc.sense = some true → s.dev.xp.part = .running →
          d.sc.dock = .bringup ∧ d.sc.session = nextSession s.dev.sc.session))

/-- INPUT_DRAIN_END, when the drain has ended: RELEASE is queued to the last position and the sequence waits for it (R98, R99). -/
def Obligations.InputDrainEndResult : Prop :=
  ∀ (s : State) (q : Sequence) (k : Pos), s.dev.sc.sequence = some q → q.step = .drain →
    (s.dev.drained q = true ∨ 100 ≤ q.timer) → Pos.ofNat? s.dev.last = some k → (s.dev.entry k).releasing = false →
    Takes s.dev k (Msg.new .sc .release) →
    ∃ d, exec .inputDrainEnd s = .next { s with dev := d } ∧
      Settled { s.dev with
        sc := { s.dev.sc with sequence := some { q with step := .releasing k } }
        le := queued k .sc .release s.dev.le } d

/-! ### Settings and side lines (chapters 6, 10) -/

/-- SCAN when it is due and no stall stands: the Intent Reconciler begins a pass with the global record, or owes one; reads of
the taken count and at the update cursor fall due, the former not where one has fallen due in this superframe already
(R131, R178); of the published sections only entry sections may be asked for (R106, R19). -/
def Obligations.ScanResult : Prop :=
  ∀ s : State, s.dev.working = true → s.dev.xp.scanDue = true → s.dev.xp.windowStall = false →
    ∃ (e : Per6 Sec) (i : Ir), exec .scan s = .next { s with dev := Dev.offerAll { s.dev with
        xp := { s.dev.xp with scanDue := false }
        ir := i
        ic := { s.dev.ic with takenDue := s.dev.ic.takenDue || !s.dev.ic.asked, asked := true }
        dtu := { s.dev.dtu with readDue := true }
        pub := { s.dev.pub with entry := e } } } ∧
      (s.dev.ir.pass.isSome = true → i = { s.dev.ir with owed := true }) ∧
      (s.dev.ir.pass = none → i = { s.dev.ir with
        pass := some { record := .global, step := .close, closeGen := 0, globalData := 0, nodeData := 0 } }) ∧
      ∀ k, (e.get k).gen = (s.dev.pub.entry.get k).gen ∧ (e.get k).step = (s.dev.pub.entry.get k).step

/-- INTENT_READ_COMPLETE of the read in the engine. A close generation other than the applied one and 0: the fields
come next. The fields: the open generation comes next. An open generation other than the close one: the record is
torn, the torn count advances by 1 (R107). Equal, a global record with a bad field: REFUSED, with that field,
generation and stamp (R108, R109). Equal, a good global record: every block has its fields, the notice enables, error
threshold, hold-over limit, supply policy, head status block, line functions and the three serials; a serial that
moved, on a take that is not the first, starts the release sequence, from DOCKED, BRINGUP and HOLDING, sends a faulted
chain back to WAITING with retry count 0, or begins locate for the host (R109, R97, R65, R76). Equal, a good node
record: it is taken and its levels are requested (R108, R111). Equal, a node record with a bad field: REFUSED, with
that field, generation and stamp in its applied record, and the record taken before stays (R108, R111, R120). -/
def Obligations.IntentReadResult : Prop :=
  ∀ (s : State) (p : ScanPass), s.dev.ir.pass = some p → s.dev.xp.engine = some (.intent p.record p.step) →
    (∀ g, p.step = .close → g ≠ s.dev.appliedGenOf p.record → g ≠ 0 →
      ∃ d, exec (.intentReadComplete (.generation g)) s = .next { s with dev := d } ∧
        Settled { s.dev with
          xp := { s.dev.xp with engine := none }
          ir := { s.dev.ir with pass := some { p with step := .fields, closeGen := g } } } d) ∧
    (∀ f, p.step = .fields → p.record = .global →
      ∃ d, exec (.intentReadComplete (.globalFields f)) s = .next { s with dev := d } ∧
        Settled { s.dev with
          xp := { s.dev.xp with engine := none }
          ir := { s.dev.ir with pass := some { p with step := .openGen, globalData := f } } } d) ∧
    (∀ k f, p.step = .fields → p.record = .node k →
      ∃ d, exec (.intentReadComplete (.nodeFields f)) s = .next { s with dev := d } ∧
        Settled { s.dev with
          xp := { s.dev.xp with engine := none }
          ir := { s.dev.ir with pass := some { p with step := .openGen, nodeData := f } } } d) ∧
    (∀ g, p.step = .openGen → g ≠ p.closeGen → s.dev.mayTake p.record = true →
      ∃ (d : Dev) (next : Option ScanPass) (owed : Bool),
        exec (.intentReadComplete (.generation g)) s = .next { s with dev := d } ∧
        Settled { s.dev with
          xp := { s.dev.xp with engine := none }
          ir := { s.dev.ir with torn := s.dev.ir.torn + 1, pass := next, owed := owed }
          pub := { s.dev.pub with torn := true } } d) ∧
    (∀ f, p.step = .openGen → p.record = .global → checkGlobal p.globalData = .refused f →
      ∃ (d : Dev) (next : Option ScanPass) (owed : Bool),
        exec (.intentReadComplete (.generation p.closeGen)) s = .next { s with dev := d } ∧
        Settled { s.dev with
          xp := { s.dev.xp with engine := none }
          ir := { s.dev.ir with
            globalGen := p.closeGen, globalRefused := true, globalField := f, globalStamp := s.dev.le.stamp
            pass := next, owed := owed }
          pub := { s.dev.pub with globalApplied := s.dev.pub.globalApplied.want } } d) ∧
    (∀ g, p.step = .openGen → p.record = .global → checkGlobal p.globalData = .accepted g →
      (s.dev.ir.globalTaken = false ∨ (g.releaseSerial = s.dev.sc.releaseSerial ∧ g.chainSerial = s.dev.cm.chainSerial ∧
        g.locateSerial = s.dev.cm.locateSerial) →
        ∃ d, exec (.intentReadComplete (.generation p.closeGen)) s = .next { s with dev := d } ∧
          d.ir.globalGen = p.closeGen ∧ d.ir.globalRefused = false ∧ d.ir.globalField = 0 ∧
          d.ir.globalStamp = s.dev.le.stamp ∧ d.ir.globalTaken = true ∧
          d.pub.globalApplied = s.dev.pub.globalApplied.want ∧ d.xp.enables = g.enables ∧ d.le.threshold = g.threshold ∧
          d.pcu.policy = { minVolt := g.minVolt, maxVolt := g.maxVolt, minPower := g.minPower, preference := g.preference } ∧
          d.pcu.hostBlock = g.block ∧ (∀ n, (d.slu.lines.get n).fn = g.functions.get n) ∧
          d.sc = { s.dev.sc with holdLimit := g.holdLimit, releaseSerial := g.releaseSerial } ∧
          d.cm.chainSerial = g.chainSerial ∧ d.cm.locateSerial = g.locateSerial ∧ d.cm.table = s.dev.cm.table ∧
          d.cm.discovery = s.dev.cm.discovery ∧ d.mem = s.dev.mem) ∧
      (s.dev.ir.globalTaken = true → s.dev.sc.dock = .docked ∨ s.dev.sc.dock = .bringup ∨ s.dev.sc.dock = .holding →
        s.dev.sc.undock = none → g.releaseSerial ≠ s.dev.sc.releaseSerial → g.chainSerial = s.dev.cm.chainSerial →
        g.locateSerial = s.dev.cm.locateSerial →
        ∃ d, exec (.intentReadComplete (.generation p.closeGen)) s = .next { s with dev := d } ∧ d.sc.dock = .releasing ∧
          d.sc.sequence.isSome = true ∧ d.sc.releaseSerial = g.releaseSerial ∧ d.sc.holdLimit = g.holdLimit) ∧
      (s.dev.ir.globalTaken = true → s.dev.sc.dock = .docked → s.dev.sc.undock = none →
        (g.releaseSerial = s.dev.sc.releaseSerial → g.chainSerial ≠ s.dev.cm.chainSerial →
          g.locateSerial = s.dev.cm.locateSerial → (s.dev.cm.discovery = .faulted ∨ s.dev.cm.discovery = .givenUp) →
          s.dev.lowestFailed = none →
          ∃ d, exec (.intentReadComplete (.generation p.closeGen)) s = .next { s with dev := d } ∧
            d.cm.discovery = .waiting ∧ d.cm.retry = 0 ∧ d.cm.chainSerial = g.chainSerial ∧ d.cm.table = s.dev.cm.table) ∧
        (g.releaseSerial = s.dev.sc.releaseSerial → g.chainSerial = s.dev.cm.chainSerial →
          g.locateSerial ≠ s.dev.cm.locateSerial → s.dev.cm.discovery ≠ .shut → s.dev.anyReleasing = false →
          s.dev.cm.release = none →
          ∃ d, exec (.intentReadComplete (.generation p.closeGen)) s = .next { s with dev := d } ∧
            d.cm.discovery = .locating ∧ d.cm.locate.step = .settling ∧ d.cm.locate.cause = .host ∧
            d.cm.locate.seg = .p2 ∧ d.cm.locateSerial = g.locateSerial))) ∧
    (∀ k n, p.step = .openGen → p.record = .node k → s.dev.readable k = true → checkNode p.nodeData = .accepted n →
      ∃ d, exec (.intentReadComplete (.generation p.closeGen)) s = .next { s with dev := d } ∧
        (d.ir.pos.get k).taken = n ∧ (d.ir.pos.get k).takenGen = p.closeGen ∧
        d.pcu.reqDisplay = s.dev.pcu.reqDisplay.set k n.displayBacklight ∧
        d.pcu.reqKey = s.dev.pcu.reqKey.set k n.keyBacklight ∧ d.cm.table = s.dev.cm.table ∧ d.mem = s.dev.mem) ∧
    (∀ k f, p.step = .openGen → p.record = .node k → s.dev.readable k = true → checkNode p.nodeData = .refused f →
      ∃ (d : Dev) (next : Option ScanPass) (owed : Bool),
        exec (.intentReadComplete (.generation p.closeGen)) s = .next { s with dev := d } ∧
        Settled { s.dev with
          xp := { s.dev.xp with engine := none }
          ir := { s.dev.ir with
            pos := s.dev.ir.pos.set k { s.dev.ir.pos.get k with
              appliedGen := p.closeGen, result := .refused, refused := f, stamp := s.dev.le.stamp }
            pass := next, owed := owed }
          pub := { s.dev.pub with applied := s.dev.pub.applied.modify k Sec.want } } d)

/-- REDERIVE at an ACTIVE entry with no push in flight and none blocked, where an item of Dev.differing differs: a push begins
that shows the applied generation again, and a SET of the first six differing items is queued (R116, R113); an attention
placed in it is no longer pending (R119). A pending attention counts as differing and so alone begins a re-derive: the
model's reading of R113 (log 33). ATTENTION_STALE at 1000: the attention is dropped, STALE is set and the applied record is
written with the stamp, generation and result unchanged (R119). -/
def Obligations.SettingCommands : Prop :=
  ∀ (s : State) (k : Pos) (p : IrPos), p = s.dev.ir.pos.get k →
    (∀ items, items = (s.dev.differing k).take 6 → s.dev.differing k ≠ [] → (s.dev.entry k).state = .active →
      (s.dev.entry k).releasing = false → p.push = none → p.blocked = none → s.dev.sc.dock ≠ .releasing →
      s.dev.settingOut k = false → Takes s.dev k (Msg.new .ir (.set items 0)) →
      exec (.rederive k) s = .next { s with dev := Dev.offerAll { s.dev with
        le := queued k .ir (.set items 0) s.dev.le
        ir := { s.dev.ir with
          pos := s.dev.ir.pos.set k { p with
            push := some { gen := p.appliedGen, first := false }
            attention := if items.any (fun i => i.item == .attention) then none else p.attention } } } }) ∧
    (∀ a, p.attention = some a → 1000 ≤ a.timer →
      exec (.attentionStale k) s = .next { s with dev := Dev.offerAll { s.dev with
        ir := { s.dev.ir with
          pos := s.dev.ir.pos.set k { p with attention := none, stale := true, stamp := s.dev.le.stamp } }
        pub := { s.dev.pub with applied := s.dev.pub.applied.modify k Sec.want } } })

/-- LINE_DEBOUNCE after 20 equal samples of a level other than the stable one, on a line that is sampled: the stable level takes
it, LINES advances by 1, motion inhibit and crank follow, every other line is as it was (R170). On a RELEASE line a change
from INACTIVE to ACTIVE while DOCKED with no undock pending starts the release sequence (R97). -/
def Obligations.LineDebounceResult : Prop :=
  ∀ (s : State) (n : Line) (l : LineState), l = s.dev.slu.lines.get n → l.sampled = true → 20 ≤ l.run →
    l.target ≠ l.stable →
    (l.fn ≠ .release →
      ∃ d, exec (.lineDebounce n) s = .next { s with dev := d } ∧
        d.slu.lines = s.dev.slu.lines.set n { l with stable := l.target } ∧ d.slu.motion = d.slu.motionOf ∧
        d.slu.crank = d.slu.crankOf ∧ d.xp = { bumped .lines s.dev.xp with offered := d.xp.offered } ∧ d.le = s.dev.le ∧ d.sc = s.dev.sc ∧
        d.cm.table = s.dev.cm.table ∧ d.mem = s.dev.mem) ∧
    (l.fn = .release → l.stable = .inactive → l.target = .active → s.dev.sc.dock = .docked → s.dev.sc.undock = none →
      ∃ d, exec (.lineDebounce n) s = .next { s with dev := d } ∧ d.sc.dock = .releasing ∧
        (d.slu.lines.get n).stable = .active ∧ d.mem = s.dev.mem)

/-! ### Supply (chapter 9) -/

/-- CONTRACT_TIMEOUT of a contract 500 superframes in TRANSITION: CONTRACT_TIMEOUT is logged and the contract offer joins the
refused set (R157). BRACE_END 200 superframes after both conditions ended: the part is no longer braced, the clear count is 0
and allocation runs in the same step, so the grants are those of Dev.allocate (R161, R163). -/
def Obligations.PowerTimers : Prop :=
  ∀ s : State,
    (∀ i, s.dev.pcu.contract = .transition → 500 ≤ s.dev.pcu.transTimer → s.dev.pcu.offer = some i →
      ∃ d, exec .contractTimeout s = .next { s with dev := d } ∧
        d.pcu.refused = s.dev.pcu.refused ||| (1#8 <<< i.toNat) ∧
        ({ number := s.dev.cm.log.total + 1, code := .contractTimeout, placeKind := .position, place := 1
           localized := false, detail := .none, session := s.dev.sc.session, stamp := s.dev.le.stamp } : FaultRecord)
          ∈ d.cm.log.records ∧ d.cm.table = s.dev.cm.table ∧ d.sc = s.dev.sc ∧ d.mem = s.dev.mem) ∧
    (s.dev.pcu.braced = true → s.dev.pcu.live.dip = false → s.dev.slu.crank = false → 200 ≤ s.dev.pcu.clearCount →
      ∀ u : Dev, u = { s.dev with pcu := { s.dev.pcu with braced := false, clearCount := 0 } } →
        ∃ d, exec .braceEnd s = .next { s with dev := d } ∧ Settled u d ∧ d.pcu = u.allocate.pcu)

/-- Allocation keeps to the budget and gives each position the highest level that fits (R163). Where the bases of the counted
entries fit, what is granted draws exactly the budget less the bases less the remainder, which is not negative. A counted
entry with a display section has the highest level up to the requested one whose extra draw fits what the positions before
it leave; then a counted entry with a keys section, within what the displays and the positions before it leave; any other
grant is 0. Where the bases do not fit, every grant is 0, the short flag set and the remainder negative. Allocation runs in
every settled step of an unbraced part that changed what it depends on. -/
def Obligations.GrantsWithinBudget : Prop :=
  (∀ d : Dev,
    (d.bases ≤ d.pcu.live.budget.toNat → ∀ (a : Dev) (room : Nat), a = d.allocate →
      room = d.pcu.live.budget.toNat - d.bases →
      0 ≤ a.pcu.remainder ∧ a.pcu.remainder = (d.pcu.live.budget.toNat : Int) - d.bases - drawn a ∧ a.pcu.short = false ∧
      ∀ k,
        (∀ p, d.counted k = true → (d.entry k).caps.power = some p →
          ((d.entry k).caps.display.isSome = true →
            HighestFit p (d.pcu.reqDisplay.get k).toNat (a.pcu.grantDisplay.get k).toNat
              (room - drawnBefore d a.pcu.grantDisplay k)) ∧
          ((d.entry k).caps.keys.isSome = true →
            HighestFit p (d.pcu.reqKey.get k).toNat (a.pcu.grantKey.get k).toNat
              (room - (Pos.all.map (drawAt d a.pcu.grantDisplay)).sum - drawnBefore d a.pcu.grantKey k))) ∧
        (d.counted k = false ∨ (d.entry k).caps.display.isSome = false → a.pcu.grantDisplay.get k = 0) ∧
        (d.counted k = false ∨ (d.entry k).caps.keys.isSome = false → a.pcu.grantKey.get k = 0)) ∧
    (d.pcu.live.budget.toNat < d.bases →
      d.allocate.pcu.remainder < 0 ∧ d.allocate.pcu.short = true ∧
      ∀ k, d.allocate.pcu.grantDisplay.get k = 0 ∧ d.allocate.pcu.grantKey.get k = 0)) ∧
  ∀ (f : Dev → Dev) (s t : State), s.runSettled f = .next t → (f s.dev).pcu.braced = false →
    s.dev.allocationDue (f s.dev) = true → t.dev.pcu = (f s.dev).allocate.pcu

/-! ### Display updates (chapter 8) -/

/-- CURSOR_READ_COMPLETE of the read in the engine. A first index of 0 to 63 puts the cursor there in phase AT; NONE leaves it. A
record whose post serial equals its outcome serial, as the part keeps it (log 39), is not taken; one withdrawn has outcome
WITHDRAWN decided, with SPLIT clear (log 42); one with an ACTIVE target, in DOCKED and RUNNING, that passes validation is
taken, its first batch in GATE (R139, R140, R141, R143), also where a release of the target is pending: that is the model's
choice (log 79), R150 stopping a posting from the request on. A HELD or LOST target, a record that fails validation, and the
reads of the next index are not stated here. -/
def Obligations.CursorReadResult : Prop :=
  ∀ s : State,
    (∀ i : Byte, s.dev.xp.engine = some .firstIndex →
      (i.toNat < 64 → exec (.cursorReadComplete (.first i)) s = .next { s with dev := Dev.offerAll { s.dev with
        xp := { s.dev.xp with engine := none }
        dtu := { s.dev.dtu with cursor := some (i.setWidth 6), phase := .at }
        pub := { s.dev.pub with cursor := true, hostTag := true } } }) ∧
      (64 ≤ i.toNat → exec (.cursorReadComplete (.first i)) s = .next { s with dev := Dev.offerAll { s.dev with
        xp := { s.dev.xp with engine := none } } })) ∧
    (∀ (c : BitVec 6) (x : BitVec 384) (u : UpdateRecord), s.dev.xp.engine = some (.record c) → u = updateRecord x →
      (u.post = s.dev.serialOf c → exec (.cursorReadComplete (.record x)) s = .next { s with dev := Dev.offerAll { s.dev with
        xp := { s.dev.xp with engine := none } } }) ∧
      (u.post ≠ s.dev.serialOf c → u.withdraw = u.post →
        exec (.cursorReadComplete (.record x)) s = .next { s with dev := Dev.offerAll { s.dev with
          xp := { s.dev.xp with engine := none }
          dtu := { s.dev.dtu with
            outcome := some { outcome := .withdrawn, reason := .none, split := false, tilesSent := 0, commits := 0
                              stamp := s.dev.le.stamp, serial := u.post, hostTag := u.hostTag
                              fieldsWritten := false } } } }) ∧
      (∀ k, u.post ≠ s.dev.serialOf c → u.withdraw ≠ u.post → s.dev.sc.dock = .docked → s.dev.xp.part = .running →
        Pos.ofNat? u.target.toNat = some k → (s.dev.entry k).state = .active →
        s.dev.postingFault k u.x u.y u.w u.h u.stride = none →
        ∃ (d : Dev) (p : Posting), exec (.cursorReadComplete (.record x)) s = .next { s with dev := d } ∧
          d.dtu.posting = some p ∧ p.post = u.post ∧ p.target = k ∧ p.source = u.source ∧ p.stride = u.stride ∧
          p.state = .gate ∧ p.batch = 0 ∧ p.sendPoint = 0 ∧ p.received = 0 ∧ p.ready = [] ∧
          p.tag = s.dev.nextTag k ∧ p.split = decide (s.dev.staging k < p.tiles) ∧ d.dtu.phase = .taken ∧ d.dtu.tagCounter = p.tag ∧ d.cm = s.dev.cm ∧ d.mem = s.dev.mem))

/-- Progress of the taken posting. PIXEL_READ_COMPLETE: a tile of the present ready list joins its tail, one of an emptied list is
discarded, a failed read ends the posting FAILED with SOURCE_READ and queues DISCARD (R144, R151). GO_BACK at a further
multiple of 4 puts the send point back to the received count and empties the ready list (R145). NO_PROGRESS at 64 ends the
posting FAILED with NO_PROGRESS and queues DISCARD (R147); a COMMIT of it still queued or in flight stays ahead of that DISCARD,
the model's choice (log 98). -/
def Obligations.PostingProgress : Prop :=
  ∀ (s : State) (p : Posting), s.dev.dtu.posting = some p →
    ∀ failed : UpdateReason → OutcomeWrite,
      (∀ r, failed r = { outcome := .failed, reason := r, split := p.split, tilesSent := p.tilesSent, commits := p.commits
                         stamp := s.dev.le.stamp, serial := p.post, hostTag := p.hostTag, fieldsWritten := false }) →
      (∀ i n rows, s.dev.xp.engine = some (.pixels i n rows) →
        (∀ tile, n ≠ s.dev.dtu.readyNo → exec (.pixelReadComplete tile) s = .next { s with dev := Dev.offerAll { s.dev with
          xp := { s.dev.xp with engine := none } } }) ∧
        (∀ px, n = s.dev.dtu.readyNo → exec (.pixelReadComplete (some px)) s = .next { s with dev := Dev.offerAll { s.dev with
          xp := { s.dev.xp with engine := none }
          dtu := { s.dev.dtu with posting := some { p with ready := p.ready ++ [{ index := i, pixels := px }] } } } }) ∧
        (n = s.dev.dtu.readyNo → Takes s.dev p.target (Msg.new .dtu .discard) →
          exec (.pixelReadComplete none) s = .next { s with dev := Dev.offerAll { s.dev with
            xp := { s.dev.xp with engine := none }
            le := queued p.target .dtu .discard s.dev.le
            dtu := { s.dev.dtu with
              posting := none, readyNo := s.dev.dtu.readyNo + 1, outcome := some (failed .sourceRead) } } })) ∧
      (p.state = .sending → 0 < p.timer → p.timer % 4 = 0 → p.received < p.sendPoint →
        exec .goBack s = .next { s with dev := Dev.offerAll { s.dev with dtu := { s.dev.dtu with
          posting := some { p with sendPoint := p.received, ready := [] }, readyNo := s.dev.dtu.readyNo + 1 } } }) ∧
      (p.state ≠ .waiting → 64 ≤ p.timer → Takes s.dev p.target (Msg.new .dtu .discard) →
        exec .noProgress s = .next { s with dev := Dev.offerAll { s.dev with
          le := queued p.target .dtu .discard s.dev.le
          dtu := { s.dev.dtu with
            posting := none, readyNo := s.dev.dtu.readyNo + 1, outcome := some (failed .noProgress) } } })

/-- OUTCOME_WRITE_COMPLETE: the outcome serial stands in its own word of the record, the cursor is in phase AFTER with a read due,
the outcome is no longer waiting and UPDATES advances by 1; no other byte of memory changes (R142). -/
def Obligations.OutcomeWriteResult : Prop :=
  ∀ (s : State) (c : BitVec 6) (o : OutcomeWrite), s.dev.xp.engine = some (.outcomeSerial c) →
    s.dev.dtu.outcome = some o →
    ∃ m, exec .outcomeWriteComplete s = .next { s with dev := Dev.offerAll { s.dev with
        mem := m
        xp := bumped .updates { s.dev.xp with engine := none }
        dtu := { s.dev.dtu with
          outcome := none, readDue := true, serials := s.dev.dtu.serials.set c.toNat o.serial, cursor := some c
          phase := .after }
        pub := { s.dev.pub with cursor := true, hostTag := true, counters := s.dev.pub.counters.set .updates true } } } ∧
      Wrote s.dev { s.dev with mem := m } (0x4000 + 0x40 * c.toNat + 0x3C) (le16 o.serial ++ [0, 0])

/-! ### The journal and the published sections (chapters 1, 4, 6, 7) -/

/-- The Input Collector's accesses. TAKEN_COUNT_READ: a count at most 512 behind the write count is valid and kept,
any other sets JOURNAL_COUNT and keeps the last valid one (R131). A journal entry is offered only with a last valid
taken count fewer than 512 entries behind the write count, none invalid and, after a stall, one read since (R131,
R132); what comes before it in the offers, the read of the taken count that is due and the count that covers what is
written, is log 9. JOURNAL_ENTRY_WRITE: the head of staging stands in its slot and has left staging, and the write
count advances by 1 (R130). WRITE_COUNT_WRITE: the write count stands in the part header, and INPUT advances by 1
where it differs from the one last written (R130). No other byte of memory changes. -/
def Obligations.JournalCommands : Prop :=
  ∀ s : State,
    (∀ t : W32, s.dev.xp.engine = some .takenCount →
      ∃ d, exec (.takenCountRead t) s = .next { s with dev := d } ∧ d.xp = { s.dev.xp with engine := none, offered := d.xp.offered } ∧
        d.mem = s.dev.mem ∧ d.le = s.dev.le ∧ d.cm = s.dev.cm ∧
        ((s.dev.ic.writeCount - t).toNat ≤ 512 →
          d.ic = { s.dev.ic with takenFirst := false, invalid := false, taken := some t }) ∧
        (512 < (s.dev.ic.writeCount - t).toNat → d.ic = { s.dev.ic with takenFirst := false, invalid := true })) ∧
    (∀ i rest, s.dev.xp.engine = some .journal → s.dev.ic.staging = i :: rest →
      ∃ m, exec .journalEntryWrite s = .next { s with dev := Dev.offerAll { s.dev with
          mem := m
          xp := { s.dev.xp with engine := none }
          ic := { s.dev.ic with staging := rest, writeCount := s.dev.ic.writeCount + 1 } } } ∧
        Wrote s.dev { s.dev with mem := m } (0x2000 + 16 * (s.dev.ic.writeCount.toNat % 512)) i.bytes) ∧
    (∀ v : W32, s.dev.xp.engine = some (.writeCount v) →
      ∃ m, Wrote s.dev { s.dev with mem := m } 0x110 (le32 v) ∧
        (v = s.dev.ic.written → exec .writeCountWrite s = .next { s with dev := Dev.offerAll { s.dev with
          mem := m
          xp := { s.dev.xp with engine := none }
          ic := { s.dev.ic with written := v } } }) ∧
        (v ≠ s.dev.ic.written → exec .writeCountWrite s = .next { s with dev := Dev.offerAll { s.dev with
          mem := m
          xp := bumped .input { s.dev.xp with engine := none }
          ic := { s.dev.ic with written := v }
          pub := { s.dev.pub with counters := s.dev.pub.counters.set .input true } } })) ∧
    (s.dev.work .ic = some .journal ↔ s.dev.ic.takenDue = false ∧ s.dev.ic.written = s.dev.ic.writeCount ∧
      s.dev.ic.staging ≠ [] ∧ s.dev.ic.invalid = false ∧ s.dev.ic.takenFirst = false ∧
      ∃ t, s.dev.ic.taken = some t ∧ (s.dev.ic.writeCount - t).toNat < 512) ∧
    (s.dev.offerAll.xp.offered.ic = some .journal →
      s.dev.xp.offered.ic = some .journal ∨ (s.dev.xp.offered.ic = none ∧ s.dev.work .ic = some .journal))

/-- ENTRY_SECTION_WRITE writes the close generation; NODES advances by 1 exactly where state, kind or identity differs
from the previous write (R19, R20); the identity is compared whole, so for a revision alone too (the model's choice,
log 47). APPLIED_SECTION_WRITE writes the close generation and APPLIED advances by 1 (R120, R109). FAULT_TOTAL_WRITE
writes the total and FAULTS advances by the difference of the totals (R81). No other byte of memory changes. -/
def Obligations.SectionCommands : Prop :=
  ∀ s : State,
    (∀ k, s.dev.xp.engine = some (.publish (.entry k) .close) →
      ∃ d, exec .entrySectionWrite s = .next { s with dev := d } ∧
        Wrote s.dev d (entryOffset k + 4) (le32 (s.dev.pub.entry.get k).gen) ∧
        d.pub.entry = s.dev.pub.entry.set k { s.dev.pub.entry.get k with step := .idle } ∧
        d.pub.entryWritten = s.dev.pub.entryWritten.set k (s.dev.pub.entryCarried.get k) ∧
        ((s.dev.pub.entryCarried.get k).state = (s.dev.pub.entryWritten.get k).state →
          (s.dev.pub.entryCarried.get k).identity = (s.dev.pub.entryWritten.get k).identity →
          d.xp = { s.dev.xp with engine := none, offered := d.xp.offered }) ∧
        ((s.dev.pub.entryCarried.get k).state ≠ (s.dev.pub.entryWritten.get k).state ∨
          (s.dev.pub.entryCarried.get k).identity ≠ (s.dev.pub.entryWritten.get k).identity →
          d.xp = { bumped .nodes { s.dev.xp with engine := none } with offered := d.xp.offered }) ∧
        d.cm = s.dev.cm ∧ d.le = s.dev.le ∧ d.sc = s.dev.sc) ∧
    (∀ k, s.dev.xp.engine = some (.publish (.applied k) .close) →
      ∃ d, exec .appliedSectionWrite s = .next { s with dev := d } ∧
        Wrote s.dev d (entryOffset k + 0xA4) (le32 (s.dev.pub.applied.get k).gen) ∧
        d.pub.applied = s.dev.pub.applied.set k { s.dev.pub.applied.get k with step := .idle } ∧
        d.xp = { bumped .applied { s.dev.xp with engine := none } with offered := d.xp.offered } ∧ d.ir = s.dev.ir ∧ d.cm = s.dev.cm ∧ d.le = s.dev.le) ∧
    (s.dev.xp.engine = some (.publish .globalApplied .close) →
      ∃ d, exec .appliedSectionWrite s = .next { s with dev := d } ∧
        Wrote s.dev d 0x304 (le32 s.dev.pub.globalApplied.gen) ∧
        d.pub.globalApplied = { s.dev.pub.globalApplied with step := .idle } ∧
        d.xp = { bumped .applied { s.dev.xp with engine := none } with offered := d.xp.offered } ∧ d.ir = s.dev.ir ∧ d.cm = s.dev.cm ∧ d.le = s.dev.le) ∧
    (∀ v : W32, s.dev.xp.engine = some (.faultTotal v) →
      ∃ d, exec .faultTotalWrite s = .next { s with dev := d } ∧ Wrote s.dev d 0x340 (le32 v) ∧
        d.cm = { s.dev.cm with log := { s.dev.cm.log with written := v } } ∧
        d.xp.counters.get .faults = s.dev.xp.counters.get .faults + (v - s.dev.cm.log.written) ∧
        d.xp.engine = none ∧ d.le = s.dev.le ∧ d.sc = s.dev.sc)

/-! ### The exchange window (chapter 11) -/

/-- The arbiter (R177). With no stall standing and the write of the stall area not owed, the engine, when free, takes
the first requester after the one served last that has a request waiting. While a stall stands the order is the same, the
Exchange Port having the write of the stall area waiting and then its retry, the Display Transfer Unit its pixel read, and no
other requester anything; a write of the stall area left when the stall has cleared comes first of all (R179). At the end of a step a requester with no
request waiting and none in the engine offers what it has to do next (in the model's order, log 9), and one that is
waiting stays as it was offered. WINDOW_ACCESS_GRANT with bus mastering enabled: the request no longer waits, its
requester is the one served last, and the access is made. A header word, a step of a section (open generation advanced
by 1, fields as they now stand, close generation; R19), an initial write of STARTING (the counters 0 with the part
header; R174, R176) and the outcome fields (R142) are written whole and the engine is free; every other access stays
in the engine until its own step completes it: which writes finish at the grant is the model's choice (log 45),
as are the order and runs of the initial writes and those of their fields that no rule gives (logs 66, 89, 116, 117). No other
byte of memory changes (R176). -/
def Obligations.GrantResult : Prop :=
  ∀ s : State,
    (s.dev.working = true → s.dev.xp.engine = none → s.dev.xp.stallAreaOwed = false → s.dev.xp.windowStall = false →
      ∀ r a, s.dev.nextGrant = some (r, a) ↔
        ∃ passed left, s.dev.xp.lastServed.after = passed ++ r :: left ∧ s.dev.xp.offered.get r = some a ∧
          ∀ q ∈ passed, s.dev.xp.offered.get q = none) ∧
    (s.dev.working = true → s.dev.xp.engine = none → s.dev.xp.windowStall = true → ∀ waits : Requester → Option Access,
      (∀ q, q ≠ .xp → q ≠ .dtu → waits q = none) → waits .dtu = s.dev.stallPixels →
      waits .xp = (if s.dev.xp.stallAreaOwed = true then some (.header .stallArea)
        else if s.dev.xp.retryOffered = true then some (.layout true) else none) →
      ∀ r a, s.dev.nextGrant = some (r, a) ↔
        ∃ passed left, s.dev.xp.lastServed.after = passed ++ r :: left ∧ waits r = some a ∧ ∀ q ∈ passed, waits q = none) ∧
    (s.dev.working = true → s.dev.xp.engine = none → s.dev.xp.windowStall = false → s.dev.xp.stallAreaOwed = true →
      s.dev.nextGrant = some (.xp, .header .stallArea)) ∧
    (s.dev.working = true → ∀ r, s.dev.offerAll.xp.offered.get r =
      if (s.dev.xp.offered.get r).isSome || s.dev.xp.serves r then s.dev.xp.offered.get r else s.dev.work r) ∧
    (s.dev.nextGrant = none → exec .windowAccessGrant s = .next { s with dev := s.dev.offerAll }) ∧
    (∀ (r : Requester) (a : Access) (u : Dev), s.dev.nextGrant = some (r, a) → s.dev.pcie.busMaster = true →
      u = s.dev.serve r a →
      (u.xp.lastServed = r ∧ (s.dev.xp.offered.get r = some a → u.xp.offered.get r = none) ∧
        ∀ q, q ≠ r → u.xp.offered.get q = s.dev.xp.offered.get q) ∧
      (∀ w, a = .header w →
        ∃ d, exec .windowAccessGrant s = .next { s with dev := d } ∧ Wrote s.dev d w.offset (s.dev.headerWord w) ∧
          d.xp.lastServed = r ∧ d.xp.engine = none ∧ d.le = s.dev.le ∧ d.cm = s.dev.cm ∧ d.sc = s.dev.sc) ∧
      (∀ id st, a = .publish id st → (∀ i, id = .slot i → i < s.dev.pub.slots.length) →
        (st = .openGen → ∃ d, exec .windowAccessGrant s = .next { s with dev := d } ∧
          Wrote s.dev d id.offset (le32 ((s.dev.pub.sec id).gen + 1)) ∧
          d.pub.sec id = { s.dev.pub.sec id with gen := (s.dev.pub.sec id).gen + 1, step := .fields } ∧
          d.xp.engine = none ∧ d.le = s.dev.le ∧ d.cm = s.dev.cm) ∧
        (st = .fields → ∃ d, exec .windowAccessGrant s = .next { s with dev := d } ∧
          Wrote s.dev d (id.offset + 8) (s.dev.secFields id) ∧
          d.pub.sec id = { s.dev.pub.sec id with dirty := false, step := .close } ∧
          (∀ k, id = .entry k → d.pub.entryCarried = s.dev.pub.entryCarried.set k (s.dev.entryNow k)) ∧
          d.xp.engine = none ∧ d.le = s.dev.le ∧ d.cm = s.dev.cm) ∧
        (st = .close → id.hasRow = false → ∃ d, exec .windowAccessGrant s = .next { s with dev := d } ∧
          Wrote s.dev d (id.offset + 4) (le32 (s.dev.pub.sec id).gen) ∧
          d.pub.sec id = { s.dev.pub.sec id with step := .idle } ∧
          d.xp.engine = none ∧ d.le = s.dev.le ∧ d.cm = s.dev.cm) ∧
        (st = .close → id.hasRow = true → exec .windowAccessGrant s = .next { s with dev := Dev.offerAll { u with
          xp := { u.xp with engine := some a } } })) ∧
      (∀ n o bs, a = .initial n → s.dev.initialWrite n = some (o, bs) →
        ∃ d, exec .windowAccessGrant s = .next { s with dev := d } ∧ Wrote s.dev d o bs ∧ d.xp.initial = some (n + 1) ∧
          d.xp.counters = (if n = 0 then Per9.const 0 else s.dev.xp.counters) ∧ d.xp.part = s.dev.xp.part ∧
          d.xp.engine = none ∧ d.le = s.dev.le ∧ d.cm = s.dev.cm) ∧
      (∀ c o, a = .outcomeFields c → s.dev.dtu.outcome = some o →
        ∃ d, exec .windowAccessGrant s = .next { s with dev := d } ∧
          Wrote s.dev d (0x4000 + 0x40 * c.toNat + 0x30)
            (outcomeBytes o.outcome o.reason o.split o.commits o.tilesSent o.stamp) ∧
          d.dtu = { s.dev.dtu with outcome := some { o with fieldsWritten := true } } ∧ d.xp.engine = none ∧
          d.le = s.dev.le ∧ d.cm = s.dev.cm) ∧
      ((∃ b, a = .layout b) ∨ (∃ x st, a = .intent x st) ∨ (∃ i n rows, a = .pixels i n rows) ∨ (∃ t, a = .faultTotal t) ∨
          a = .journal ∨ (∃ v, a = .writeCount v) ∨ (∃ c, a = .outcomeSerial c) →
        exec .windowAccessGrant s = .next { s with dev := Dev.offerAll { u with
          xp := { u.xp with engine := some a } } }) ∧
      (a = .takenCount → exec .windowAccessGrant s = .next { s with dev := Dev.offerAll { u with
        xp := { u.xp with engine := some a }
        ic := { u.ic with takenDue := false } } }) ∧
      (a = .firstIndex ∨ (∃ c, a = .record c) ∨ (∃ c, a = .nextIndex c) →
        exec .windowAccessGrant s = .next { s with dev := Dev.offerAll { u with
          xp := { u.xp with engine := some a }
          dtu := { u.dtu with readDue := false } } }))

/-- A window access fails (R179). WINDOW_STALL in RUNNING or STOPPING with no stall standing, of the access in the
engine, not a pixel read: STATUS.WINDOW_STALL is set, the stall area is the access's, the retry timer 0 and the engine
free, and no scan is due (that one not yet handed out is dropped is the model's choice, log 111); a failed intent read ends its pass; a failed cursor read or a section's open generation is
offered again, a fault total with the value then current, and a section whose close failed goes on from its fields (the model's
choice, log 49); what another requester has on offer keeps its place (R177), but for a journal entry, which is offered again
only when a taken count has been read (R132); a failed write
of the stall area leaves what the Exchange Port has on offer in its place (R177). WINDOW_ACCESS_GRANT with bus
mastering disabled fails the access in the same way, and a pixel read ends the posting SOURCE_READ (R151). In STARTING
the part is DISABLED with WINDOW_BAD and ENABLE 0 (R174). STALL_RETRY at 100, or after a nudge: the read of the layout
version is offered, and the timer returns to 0 where it had reached 100. STALL_RETRY_COMPLETE with 0001H ends the
stall, with a scan due in the next superframe; any other value leaves it standing with the timer at 0. With the stall over
an entry or chain section the Chain Manager has on offer stays so; where a write of the fault log is on offer, or nothing is
and no entry or chain section is to be written, it offers the slot of the lowest record number whose write is begun or wanted,
and with no such slot the total then current, where the window does not show it yet (R81, R177). -/
def Obligations.StallCommands : Prop :=
  ∀ s : State,
    (∀ (c : Instr) (a : Access) (r : Requester),
      ((c = .windowStall ∧ s.dev.xp.engine = some a ∧ s.dev.xp.lastServed = r) ∨
        (c = .windowAccessGrant ∧ s.dev.nextGrant = some (r, a) ∧ s.dev.pcie.busMaster = false)) → a.isPixels = false →
      (s.dev.working = true → s.dev.xp.windowStall = false →
        ∃ d, exec c s = .next { s with dev := d } ∧ d.xp.windowStall = true ∧ d.xp.stallArea = a.area ∧
          d.xp.retryTimer = 0 ∧ d.xp.engine = none ∧ d.xp.scanDue = false ∧ d.xp.part = s.dev.xp.part ∧
          d.mem = s.dev.mem ∧ d.cm = s.dev.cm ∧ d.le = s.dev.le ∧ d.sc = s.dev.sc ∧
          (∀ q b, q ≠ r → b ≠ .journal → s.dev.xp.offered.get q = some b → d.xp.offered.get q = some b) ∧
          d.xp.offered.ic ≠ some .journal ∧
          ((∃ x st, a = .intent x st) → d.ir.pass = none) ∧
          (a = .firstIndex ∨ (∃ i, a = .record i) ∨ (∃ i, a = .nextIndex i) ∨
              (∃ id, a = .publish id .openGen) →
            d.xp.offered.get r = some a) ∧
          ((∃ v, a = .faultTotal v) → d.xp.offered.get r = some (.faultTotal s.dev.cm.log.total)) ∧
          (∀ b, a = .header .stallArea → s.dev.xp.offered.xp = some b → b ≠ a → d.xp.offered.xp = some b) ∧
          (∀ id, a = .publish id .close → (∀ i, id = .slot i → i < s.dev.pub.slots.length) →
            d.pub.sec id = { s.dev.pub.sec id with step := .fields } ∧
            d.xp.offered.get r = some (.publish id .fields))) ∧
      (s.dev.xp.part = .starting →
        ∃ d, exec c s = .next { s with dev := d } ∧ d.xp.part = .disabled ∧ d.xp.windowBad = true ∧ d.xp.enable = false ∧
          d.xp.base = none ∧ d.xp.initial = none ∧ d.xp.engine = none ∧ d.mem = s.dev.mem ∧ d.cm = s.dev.cm ∧
          d.le = s.dev.le ∧ d.sc = s.dev.sc)) ∧
    (∀ i n rows r p, s.dev.nextGrant = some (r, .pixels i n rows) → s.dev.pcie.busMaster = false →
      s.dev.dtu.posting = some p → n = s.dev.dtu.readyNo →
      ∃ d o, exec .windowAccessGrant s = .next { s with dev := d } ∧ d.dtu.posting = none ∧ d.dtu.outcome = some o ∧
        o.outcome = .failed ∧ o.reason = .sourceRead ∧ o.serial = p.post ∧ d.xp.windowStall = s.dev.xp.windowStall ∧
        d.mem = s.dev.mem) ∧
    (s.dev.working = true → s.dev.xp.windowStall = true → (100 ≤ s.dev.xp.retryTimer ∨ s.dev.xp.retryDue = true) →
      exec .stallRetry s = .next { s with dev := { s.dev with xp := { s.dev.xp with
        retryOffered := true, retryTimer := if 100 ≤ s.dev.xp.retryTimer then 0 else s.dev.xp.retryTimer
        retryDue := false } } }) ∧
    (s.dev.xp.engine = some (.layout true) →
      exec (.stallRetryComplete (some 1)) s = .next { s with dev := Dev.offerAll (Dev.reofferLog { s.dev with xp := { s.dev.xp with
        engine := none, windowStall := false, retryTimer := 0, retryDue := false, scanNext := true
        stallAreaOwed := s.dev.xp.stallAreaOwed || s.dev.xp.stallAreaLater, stallAreaLater := false } }) }) ∧
    (∀ b, s.dev.xp.engine = some (.layout true) → s.dev.xp.offered.cm = some b → b.isLog = false →
      ∃ d, exec (.stallRetryComplete (some 1)) s = .next { s with dev := d } ∧ d.xp.offered.cm = some b) ∧
    (s.dev.xp.engine = some (.layout true) → s.dev.working = true →
      (∃ b, s.dev.xp.offered.cm = some b ∧ b.isLog = true) ∨
        (s.dev.xp.offered.cm = none ∧ (∀ k, (s.dev.pub.sec (.entry k)).nextStep = none) ∧
          (s.dev.pub.sec .chain).nextStep = none) →
      (∀ lower r higher st, s.dev.cm.log.records = lower ++ r :: higher →
        (∀ x ∈ lower, (s.dev.pub.sec (.slot (slotOf x.number))).nextStep = none) →
        (s.dev.pub.sec (.slot (slotOf r.number))).nextStep = some st →
        ∃ d, exec (.stallRetryComplete (some 1)) s = .next { s with dev := d } ∧
          d.xp.offered.cm = some (.publish (.slot (slotOf r.number)) st)) ∧
      ((∀ x ∈ s.dev.cm.log.records, (s.dev.pub.sec (.slot (slotOf x.number))).nextStep = none) →
        (s.dev.cm.log.total ≠ s.dev.cm.log.written → ∃ d, exec (.stallRetryComplete (some 1)) s = .next { s with dev := d } ∧
          d.xp.offered.cm = some (.faultTotal s.dev.cm.log.total)) ∧
        (s.dev.cm.log.total = s.dev.cm.log.written → s.dev.xp.offered.cm = none →
          ∃ d, exec (.stallRetryComplete (some 1)) s = .next { s with dev := d } ∧ d.xp.offered.cm = none))) ∧
    (∀ v, s.dev.xp.engine = some (.layout true) → v ≠ some 1 →
      exec (.stallRetryComplete v) s = .next { s with dev := Dev.offerAll { s.dev with xp := { s.dev.xp with
        engine := none, retryTimer := 0 } } })

/-! ### Messages (R23, R185) -/

/-- The CRC over the nine bytes "123456789" is 29B1H, and a receiver takes every message that ends in its CRC (R23). -/
def Obligations.CrcAccepts : Prop :=
  crc16 [0x31, 0x32, 0x33, 0x34, 0x35, 0x36, 0x37, 0x38, 0x39] = 0x29B1#16 ∧
    ∀ bs : List Byte, Bus.intact (withCrc bs) = some bs

/-- The head reads back every ANSWER a node lays out: position, the three flags, tag, reply code and payload, the entries, the
lost count and the fields of its kind (R26, R185). The node is the model of 2.3 (log 23). -/
def Obligations.AnswerReadBack : Prop :=
  ∀ (n : Bus.Node) (k : Byte) (r : Option (BitVec 4 × Bus.Reply)), (∀ t c p, r = some (t, c, p) → p.length ≤ 16) →
    parseAnswer (n.answerBytes k r) = some
      { pos := k, inSession := n.session.isSome, held := n.held, bufferEmpty := n.keys.entries.isEmpty
        tag := (r.map fun x => x.1).getD 0, code := (r.map fun x => BitVec.ofNat 3 (Bus.replyCodeNat x.2.1)).getD 0
        payload := (r.map fun x => x.2.2).getD [], entries := n.sends, lost := n.keys.lost
        cradle := if n.build.identity.kind = .cradle then some n.cradle else none
        sense := if n.build.port = true then some n.sense else none
        display := if n.build.identity.kind = .display then
            some { received := BitVec.ofNat 16 n.panel.stagedTiles.length, lastTag := n.panel.lastTag
                   stagingEmpty := n.panel.isEmpty }
          else none }

end Statements
end

