-- ==== Sys2Proof/Laws/State.lean ====
section
/-! SUPPORT. What each small update of the state changes and leaves, one equation per field. -/
namespace Sys2Proof

/-! ### Families -/

@[simp] theorem Per6.get_set_same {α : Type} (v : Per6 α) (k : Pos) (x : α) : (v.set k x).get k = x := by
  cases k <;> rfl

theorem Per6.get_set_other {α : Type} (v : Per6 α) {k j : Pos} (x : α) (h : j ≠ k) : (v.set k x).get j = v.get j := by
  cases k <;> cases j <;> first | rfl | exact absurd rfl h

theorem Per6.get_set {α : Type} (v : Per6 α) (k j : Pos) (x : α) :
    (v.set k x).get j = if j = k then x else v.get j := by
  split
  · next h => rw [h, Per6.get_set_same]
  · next h => exact Per6.get_set_other v x h

theorem Per6.get_modify {α : Type} (v : Per6 α) (k j : Pos) (f : α → α) :
    (v.modify k f).get j = if j = k then f (v.get k) else v.get j := Per6.get_set v k j _

@[simp] theorem Per6.get_const {α : Type} (x : α) (k : Pos) : (Per6.const x).get k = x := by cases k <;> rfl

@[simp] theorem Per6.get_ofFn {α : Type} (f : Pos → α) (k : Pos) : (Per6.ofFn f).get k = f k := by cases k <;> rfl

@[simp] theorem Per4.get_set_same {α : Type} (v : Per4 α) (n : Line) (x : α) : (v.set n x).get n = x := by
  cases n <;> rfl

theorem Per4.get_set_other {α : Type} (v : Per4 α) {n m : Line} (x : α) (h : m ≠ n) : (v.set n x).get m = v.get m := by
  cases n <;> cases m <;> first | rfl | exact absurd rfl h

@[simp] theorem Per4.get_const {α : Type} (x : α) (n : Line) : (Per4.const x).get n = x := by cases n <;> rfl

@[simp] theorem Per4.get_ofFn {α : Type} (f : Line → α) (n : Line) : (Per4.ofFn f).get n = f n := by cases n <;> rfl

@[simp] theorem Per9.get_set_same {α : Type} (v : Per9 α) (c : Cause) (x : α) : (v.set c x).get c = x := by
  cases c <;> rfl

theorem Per9.get_set_other {α : Type} (v : Per9 α) {c b : Cause} (x : α) (h : b ≠ c) : (v.set c x).get b = v.get b := by
  cases c <;> cases b <;> first | rfl | exact absurd rfl h

@[simp] theorem Per9.get_const {α : Type} (x : α) (c : Cause) : (Per9.const x).get c = x := by cases c <;> rfl

@[simp] theorem Per9.get_ofFn {α : Type} (f : Cause → α) (c : Cause) : (Per9.ofFn f).get c = f c := by cases c <;> rfl

end Sys2Proof

namespace Sys2Proof.Machine

@[simp] theorem PerRequester.get_set_same {α : Type} (v : PerRequester α) (r : Requester) (x : α) :
    (v.set r x).get r = x := by cases r <;> rfl

theorem PerRequester.get_set_other {α : Type} (v : PerRequester α) {r q : Requester} (x : α) (h : q ≠ r) :
    (v.set r x).get q = v.get q := by cases r <;> cases q <;> first | rfl | exact absurd rfl h

@[simp] theorem PerRequester.get_const {α : Type} (x : α) (r : Requester) : (PerRequester.const x).get r = x := by
  cases r <;> rfl

/-! ### One block at a time -/

@[simp] theorem Dev.onXp_xp (f : Xp → Xp) (d : Dev) : (d.onXp f).xp = f d.xp := rfl
@[simp] theorem Dev.onXp_pub (f : Xp → Xp) (d : Dev) : (d.onXp f).pub = d.pub := rfl
@[simp] theorem Dev.onXp_le (f : Xp → Xp) (d : Dev) : (d.onXp f).le = d.le := rfl
@[simp] theorem Dev.onXp_cm (f : Xp → Xp) (d : Dev) : (d.onXp f).cm = d.cm := rfl
@[simp] theorem Dev.onXp_sc (f : Xp → Xp) (d : Dev) : (d.onXp f).sc = d.sc := rfl
@[simp] theorem Dev.onXp_ir (f : Xp → Xp) (d : Dev) : (d.onXp f).ir = d.ir := rfl
@[simp] theorem Dev.onXp_ic (f : Xp → Xp) (d : Dev) : (d.onXp f).ic = d.ic := rfl
@[simp] theorem Dev.onXp_dtu (f : Xp → Xp) (d : Dev) : (d.onXp f).dtu = d.dtu := rfl
@[simp] theorem Dev.onXp_pcu (f : Xp → Xp) (d : Dev) : (d.onXp f).pcu = d.pcu := rfl
@[simp] theorem Dev.onXp_slu (f : Xp → Xp) (d : Dev) : (d.onXp f).slu = d.slu := rfl
@[simp] theorem Dev.onXp_pcie (f : Xp → Xp) (d : Dev) : (d.onXp f).pcie = d.pcie := rfl
@[simp] theorem Dev.onXp_mem (f : Xp → Xp) (d : Dev) : (d.onXp f).mem = d.mem := rfl
@[simp] theorem Dev.onXp_free (f : Xp → Xp) (d : Dev) : (d.onXp f).free = d.free := rfl

@[simp] theorem Dev.onPub_xp (f : Pub → Pub) (d : Dev) : (d.onPub f).xp = d.xp := rfl
@[simp] theorem Dev.onPub_pub (f : Pub → Pub) (d : Dev) : (d.onPub f).pub = f d.pub := rfl
@[simp] theorem Dev.onPub_le (f : Pub → Pub) (d : Dev) : (d.onPub f).le = d.le := rfl
@[simp] theorem Dev.onPub_cm (f : Pub → Pub) (d : Dev) : (d.onPub f).cm = d.cm := rfl
@[simp] theorem Dev.onPub_sc (f : Pub → Pub) (d : Dev) : (d.onPub f).sc = d.sc := rfl
@[simp] theorem Dev.onPub_ir (f : Pub → Pub) (d : Dev) : (d.onPub f).ir = d.ir := rfl
@[simp] theorem Dev.onPub_ic (f : Pub → Pub) (d : Dev) : (d.onPub f).ic = d.ic := rfl
@[simp] theorem Dev.onPub_dtu (f : Pub → Pub) (d : Dev) : (d.onPub f).dtu = d.dtu := rfl
@[simp] theorem Dev.onPub_pcu (f : Pub → Pub) (d : Dev) : (d.onPub f).pcu = d.pcu := rfl
@[simp] theorem Dev.onPub_slu (f : Pub → Pub) (d : Dev) : (d.onPub f).slu = d.slu := rfl
@[simp] theorem Dev.onPub_pcie (f : Pub → Pub) (d : Dev) : (d.onPub f).pcie = d.pcie := rfl
@[simp] theorem Dev.onPub_mem (f : Pub → Pub) (d : Dev) : (d.onPub f).mem = d.mem := rfl
@[simp] theorem Dev.onPub_free (f : Pub → Pub) (d : Dev) : (d.onPub f).free = d.free := rfl

@[simp] theorem Dev.onLe_xp (f : Le → Le) (d : Dev) : (d.onLe f).xp = d.xp := rfl
@[simp] theorem Dev.onLe_pub (f : Le → Le) (d : Dev) : (d.onLe f).pub = d.pub := rfl
@[simp] theorem Dev.onLe_le (f : Le → Le) (d : Dev) : (d.onLe f).le = f d.le := rfl
@[simp] theorem Dev.onLe_cm (f : Le → Le) (d : Dev) : (d.onLe f).cm = d.cm := rfl
@[simp] theorem Dev.onLe_sc (f : Le → Le) (d : Dev) : (d.onLe f).sc = d.sc := rfl
@[simp] theorem Dev.onLe_ir (f : Le → Le) (d : Dev) : (d.onLe f).ir = d.ir := rfl
@[simp] theorem Dev.onLe_ic (f : Le → Le) (d : Dev) : (d.onLe f).ic = d.ic := rfl
@[simp] theorem Dev.onLe_dtu (f : Le → Le) (d : Dev) : (d.onLe f).dtu = d.dtu := rfl
@[simp] theorem Dev.onLe_pcu (f : Le → Le) (d : Dev) : (d.onLe f).pcu = d.pcu := rfl
@[simp] theorem Dev.onLe_slu (f : Le → Le) (d : Dev) : (d.onLe f).slu = d.slu := rfl
@[simp] theorem Dev.onLe_pcie (f : Le → Le) (d : Dev) : (d.onLe f).pcie = d.pcie := rfl
@[simp] theorem Dev.onLe_mem (f : Le → Le) (d : Dev) : (d.onLe f).mem = d.mem := rfl
@[simp] theorem Dev.onLe_free (f : Le → Le) (d : Dev) : (d.onLe f).free = d.free := rfl

@[simp] theorem Dev.onCm_xp (f : Cm → Cm) (d : Dev) : (d.onCm f).xp = d.xp := rfl
@[simp] theorem Dev.onCm_pub (f : Cm → Cm) (d : Dev) : (d.onCm f).pub = d.pub := rfl
@[simp] theorem Dev.onCm_le (f : Cm → Cm) (d : Dev) : (d.onCm f).le = d.le := rfl
@[simp] theorem Dev.onCm_cm (f : Cm → Cm) (d : Dev) : (d.onCm f).cm = f d.cm := rfl
@[simp] theorem Dev.onCm_sc (f : Cm → Cm) (d : Dev) : (d.onCm f).sc = d.sc := rfl
@[simp] theorem Dev.onCm_ir (f : Cm → Cm) (d : Dev) : (d.onCm f).ir = d.ir := rfl
@[simp] theorem Dev.onCm_ic (f : Cm → Cm) (d : Dev) : (d.onCm f).ic = d.ic := rfl
@[simp] theorem Dev.onCm_dtu (f : Cm → Cm) (d : Dev) : (d.onCm f).dtu = d.dtu := rfl
@[simp] theorem Dev.onCm_pcu (f : Cm → Cm) (d : Dev) : (d.onCm f).pcu = d.pcu := rfl
@[simp] theorem Dev.onCm_slu (f : Cm → Cm) (d : Dev) : (d.onCm f).slu = d.slu := rfl
@[simp] theorem Dev.onCm_pcie (f : Cm → Cm) (d : Dev) : (d.onCm f).pcie = d.pcie := rfl
@[simp] theorem Dev.onCm_mem (f : Cm → Cm) (d : Dev) : (d.onCm f).mem = d.mem := rfl
@[simp] theorem Dev.onCm_free (f : Cm → Cm) (d : Dev) : (d.onCm f).free = d.free := rfl

@[simp] theorem Dev.onSc_xp (f : Sc → Sc) (d : Dev) : (d.onSc f).xp = d.xp := rfl
@[simp] theorem Dev.onSc_pub (f : Sc → Sc) (d : Dev) : (d.onSc f).pub = d.pub := rfl
@[simp] theorem Dev.onSc_le (f : Sc → Sc) (d : Dev) : (d.onSc f).le = d.le := rfl
@[simp] theorem Dev.onSc_cm (f : Sc → Sc) (d : Dev) : (d.onSc f).cm = d.cm := rfl
@[simp] theorem Dev.onSc_sc (f : Sc → Sc) (d : Dev) : (d.onSc f).sc = f d.sc := rfl
@[simp] theorem Dev.onSc_ir (f : Sc → Sc) (d : Dev) : (d.onSc f).ir = d.ir := rfl
@[simp] theorem Dev.onSc_ic (f : Sc → Sc) (d : Dev) : (d.onSc f).ic = d.ic := rfl
@[simp] theorem Dev.onSc_dtu (f : Sc → Sc) (d : Dev) : (d.onSc f).dtu = d.dtu := rfl
@[simp] theorem Dev.onSc_pcu (f : Sc → Sc) (d : Dev) : (d.onSc f).pcu = d.pcu := rfl
@[simp] theorem Dev.onSc_slu (f : Sc → Sc) (d : Dev) : (d.onSc f).slu = d.slu := rfl
@[simp] theorem Dev.onSc_pcie (f : Sc → Sc) (d : Dev) : (d.onSc f).pcie = d.pcie := rfl
@[simp] theorem Dev.onSc_mem (f : Sc → Sc) (d : Dev) : (d.onSc f).mem = d.mem := rfl
@[simp] theorem Dev.onSc_free (f : Sc → Sc) (d : Dev) : (d.onSc f).free = d.free := rfl

@[simp] theorem Dev.onIr_xp (f : Ir → Ir) (d : Dev) : (d.onIr f).xp = d.xp := rfl
@[simp] theorem Dev.onIr_pub (f : Ir → Ir) (d : Dev) : (d.onIr f).pub = d.pub := rfl
@[simp] theorem Dev.onIr_le (f : Ir → Ir) (d : Dev) : (d.onIr f).le = d.le := rfl
@[simp] theorem Dev.onIr_cm (f : Ir → Ir) (d : Dev) : (d.onIr f).cm = d.cm := rfl
@[simp] theorem Dev.onIr_sc (f : Ir → Ir) (d : Dev) : (d.onIr f).sc = d.sc := rfl
@[simp] theorem Dev.onIr_ir (f : Ir → Ir) (d : Dev) : (d.onIr f).ir = f d.ir := rfl
@[simp] theorem Dev.onIr_ic (f : Ir → Ir) (d : Dev) : (d.onIr f).ic = d.ic := rfl
@[simp] theorem Dev.onIr_dtu (f : Ir → Ir) (d : Dev) : (d.onIr f).dtu = d.dtu := rfl
@[simp] theorem Dev.onIr_pcu (f : Ir → Ir) (d : Dev) : (d.onIr f).pcu = d.pcu := rfl
@[simp] theorem Dev.onIr_slu (f : Ir → Ir) (d : Dev) : (d.onIr f).slu = d.slu := rfl
@[simp] theorem Dev.onIr_pcie (f : Ir → Ir) (d : Dev) : (d.onIr f).pcie = d.pcie := rfl
@[simp] theorem Dev.onIr_mem (f : Ir → Ir) (d : Dev) : (d.onIr f).mem = d.mem := rfl
@[simp] theorem Dev.onIr_free (f : Ir → Ir) (d : Dev) : (d.onIr f).free = d.free := rfl

@[simp] theorem Dev.onIc_xp (f : Ic → Ic) (d : Dev) : (d.onIc f).xp = d.xp := rfl
@[simp] theorem Dev.onIc_pub (f : Ic → Ic) (d : Dev) : (d.onIc f).pub = d.pub := rfl
@[simp] theorem Dev.onIc_le (f : Ic → Ic) (d : Dev) : (d.onIc f).le = d.le := rfl
@[simp] theorem Dev.onIc_cm (f : Ic → Ic) (d : Dev) : (d.onIc f).cm = d.cm := rfl
@[simp] theorem Dev.onIc_sc (f : Ic → Ic) (d : Dev) : (d.onIc f).sc = d.sc := rfl
@[simp] theorem Dev.onIc_ir (f : Ic → Ic) (d : Dev) : (d.onIc f).ir = d.ir := rfl
@[simp] theorem Dev.onIc_ic (f : Ic → Ic) (d : Dev) : (d.onIc f).ic = f d.ic := rfl
@[simp] theorem Dev.onIc_dtu (f : Ic → Ic) (d : Dev) : (d.onIc f).dtu = d.dtu := rfl
@[simp] theorem Dev.onIc_pcu (f : Ic → Ic) (d : Dev) : (d.onIc f).pcu = d.pcu := rfl
@[simp] theorem Dev.onIc_slu (f : Ic → Ic) (d : Dev) : (d.onIc f).slu = d.slu := rfl
@[simp] theorem Dev.onIc_pcie (f : Ic → Ic) (d : Dev) : (d.onIc f).pcie = d.pcie := rfl
@[simp] theorem Dev.onIc_mem (f : Ic → Ic) (d : Dev) : (d.onIc f).mem = d.mem := rfl
@[simp] theorem Dev.onIc_free (f : Ic → Ic) (d : Dev) : (d.onIc f).free = d.free := rfl

@[simp] theorem Dev.onDtu_xp (f : Dtu → Dtu) (d : Dev) : (d.onDtu f).xp = d.xp := rfl
@[simp] theorem Dev.onDtu_pub (f : Dtu → Dtu) (d : Dev) : (d.onDtu f).pub = d.pub := rfl
@[simp] theorem Dev.onDtu_le (f : Dtu → Dtu) (d : Dev) : (d.onDtu f).le = d.le := rfl
@[simp] theorem Dev.onDtu_cm (f : Dtu → Dtu) (d : Dev) : (d.onDtu f).cm = d.cm := rfl
@[simp] theorem Dev.onDtu_sc (f : Dtu → Dtu) (d : Dev) : (d.onDtu f).sc = d.sc := rfl
@[simp] theorem Dev.onDtu_ir (f : Dtu → Dtu) (d : Dev) : (d.onDtu f).ir = d.ir := rfl
@[simp] theorem Dev.onDtu_ic (f : Dtu → Dtu) (d : Dev) : (d.onDtu f).ic = d.ic := rfl
@[simp] theorem Dev.onDtu_dtu (f : Dtu → Dtu) (d : Dev) : (d.onDtu f).dtu = f d.dtu := rfl
@[simp] theorem Dev.onDtu_pcu (f : Dtu → Dtu) (d : Dev) : (d.onDtu f).pcu = d.pcu := rfl
@[simp] theorem Dev.onDtu_slu (f : Dtu → Dtu) (d : Dev) : (d.onDtu f).slu = d.slu := rfl
@[simp] theorem Dev.onDtu_pcie (f : Dtu → Dtu) (d : Dev) : (d.onDtu f).pcie = d.pcie := rfl
@[simp] theorem Dev.onDtu_mem (f : Dtu → Dtu) (d : Dev) : (d.onDtu f).mem = d.mem := rfl
@[simp] theorem Dev.onDtu_free (f : Dtu → Dtu) (d : Dev) : (d.onDtu f).free = d.free := rfl

@[simp] theorem Dev.onPcu_xp (f : Pcu → Pcu) (d : Dev) : (d.onPcu f).xp = d.xp := rfl
@[simp] theorem Dev.onPcu_pub (f : Pcu → Pcu) (d : Dev) : (d.onPcu f).pub = d.pub := rfl
@[simp] theorem Dev.onPcu_le (f : Pcu → Pcu) (d : Dev) : (d.onPcu f).le = d.le := rfl
@[simp] theorem Dev.onPcu_cm (f : Pcu → Pcu) (d : Dev) : (d.onPcu f).cm = d.cm := rfl
@[simp] theorem Dev.onPcu_sc (f : Pcu → Pcu) (d : Dev) : (d.onPcu f).sc = d.sc := rfl
@[simp] theorem Dev.onPcu_ir (f : Pcu → Pcu) (d : Dev) : (d.onPcu f).ir = d.ir := rfl
@[simp] theorem Dev.onPcu_ic (f : Pcu → Pcu) (d : Dev) : (d.onPcu f).ic = d.ic := rfl
@[simp] theorem Dev.onPcu_dtu (f : Pcu → Pcu) (d : Dev) : (d.onPcu f).dtu = d.dtu := rfl
@[simp] theorem Dev.onPcu_pcu (f : Pcu → Pcu) (d : Dev) : (d.onPcu f).pcu = f d.pcu := rfl
@[simp] theorem Dev.onPcu_slu (f : Pcu → Pcu) (d : Dev) : (d.onPcu f).slu = d.slu := rfl
@[simp] theorem Dev.onPcu_pcie (f : Pcu → Pcu) (d : Dev) : (d.onPcu f).pcie = d.pcie := rfl
@[simp] theorem Dev.onPcu_mem (f : Pcu → Pcu) (d : Dev) : (d.onPcu f).mem = d.mem := rfl
@[simp] theorem Dev.onPcu_free (f : Pcu → Pcu) (d : Dev) : (d.onPcu f).free = d.free := rfl

@[simp] theorem Dev.onSlu_xp (f : Slu → Slu) (d : Dev) : (d.onSlu f).xp = d.xp := rfl
@[simp] theorem Dev.onSlu_pub (f : Slu → Slu) (d : Dev) : (d.onSlu f).pub = d.pub := rfl
@[simp] theorem Dev.onSlu_le (f : Slu → Slu) (d : Dev) : (d.onSlu f).le = d.le := rfl
@[simp] theorem Dev.onSlu_cm (f : Slu → Slu) (d : Dev) : (d.onSlu f).cm = d.cm := rfl
@[simp] theorem Dev.onSlu_sc (f : Slu → Slu) (d : Dev) : (d.onSlu f).sc = d.sc := rfl
@[simp] theorem Dev.onSlu_ir (f : Slu → Slu) (d : Dev) : (d.onSlu f).ir = d.ir := rfl
@[simp] theorem Dev.onSlu_ic (f : Slu → Slu) (d : Dev) : (d.onSlu f).ic = d.ic := rfl
@[simp] theorem Dev.onSlu_dtu (f : Slu → Slu) (d : Dev) : (d.onSlu f).dtu = d.dtu := rfl
@[simp] theorem Dev.onSlu_pcu (f : Slu → Slu) (d : Dev) : (d.onSlu f).pcu = d.pcu := rfl
@[simp] theorem Dev.onSlu_slu (f : Slu → Slu) (d : Dev) : (d.onSlu f).slu = f d.slu := rfl
@[simp] theorem Dev.onSlu_pcie (f : Slu → Slu) (d : Dev) : (d.onSlu f).pcie = d.pcie := rfl
@[simp] theorem Dev.onSlu_mem (f : Slu → Slu) (d : Dev) : (d.onSlu f).mem = d.mem := rfl
@[simp] theorem Dev.onSlu_free (f : Slu → Slu) (d : Dev) : (d.onSlu f).free = d.free := rfl

/-! ### One row of a table at a time -/

@[simp] theorem Dev.onEntry_xp (k : Pos) (f : Entry → Entry) (d : Dev) : (d.onEntry k f).xp = d.xp := rfl
@[simp] theorem Dev.onEntry_pub (k : Pos) (f : Entry → Entry) (d : Dev) : (d.onEntry k f).pub = d.pub := rfl
@[simp] theorem Dev.onEntry_le (k : Pos) (f : Entry → Entry) (d : Dev) : (d.onEntry k f).le = d.le := rfl
@[simp] theorem Dev.onEntry_cm (k : Pos) (f : Entry → Entry) (d : Dev) : (d.onEntry k f).cm = { d.cm with table := d.cm.table.modify k f } := rfl
@[simp] theorem Dev.onEntry_sc (k : Pos) (f : Entry → Entry) (d : Dev) : (d.onEntry k f).sc = d.sc := rfl
@[simp] theorem Dev.onEntry_ir (k : Pos) (f : Entry → Entry) (d : Dev) : (d.onEntry k f).ir = d.ir := rfl
@[simp] theorem Dev.onEntry_ic (k : Pos) (f : Entry → Entry) (d : Dev) : (d.onEntry k f).ic = d.ic := rfl
@[simp] theorem Dev.onEntry_dtu (k : Pos) (f : Entry → Entry) (d : Dev) : (d.onEntry k f).dtu = d.dtu := rfl
@[simp] theorem Dev.onEntry_pcu (k : Pos) (f : Entry → Entry) (d : Dev) : (d.onEntry k f).pcu = d.pcu := rfl
@[simp] theorem Dev.onEntry_slu (k : Pos) (f : Entry → Entry) (d : Dev) : (d.onEntry k f).slu = d.slu := rfl
@[simp] theorem Dev.onEntry_pcie (k : Pos) (f : Entry → Entry) (d : Dev) : (d.onEntry k f).pcie = d.pcie := rfl
@[simp] theorem Dev.onEntry_mem (k : Pos) (f : Entry → Entry) (d : Dev) : (d.onEntry k f).mem = d.mem := rfl
@[simp] theorem Dev.onEntry_free (k : Pos) (f : Entry → Entry) (d : Dev) : (d.onEntry k f).free = d.free := rfl

@[simp] theorem Dev.onSeg_xp (k : Pos) (f : SegRecord → SegRecord) (d : Dev) : (d.onSeg k f).xp = d.xp := rfl
@[simp] theorem Dev.onSeg_pub (k : Pos) (f : SegRecord → SegRecord) (d : Dev) : (d.onSeg k f).pub = d.pub := rfl
@[simp] theorem Dev.onSeg_le (k : Pos) (f : SegRecord → SegRecord) (d : Dev) : (d.onSeg k f).le = d.le := rfl
@[simp] theorem Dev.onSeg_cm (k : Pos) (f : SegRecord → SegRecord) (d : Dev) : (d.onSeg k f).cm = { d.cm with segs := d.cm.segs.modify k f } := rfl
@[simp] theorem Dev.onSeg_sc (k : Pos) (f : SegRecord → SegRecord) (d : Dev) : (d.onSeg k f).sc = d.sc := rfl
@[simp] theorem Dev.onSeg_ir (k : Pos) (f : SegRecord → SegRecord) (d : Dev) : (d.onSeg k f).ir = d.ir := rfl
@[simp] theorem Dev.onSeg_ic (k : Pos) (f : SegRecord → SegRecord) (d : Dev) : (d.onSeg k f).ic = d.ic := rfl
@[simp] theorem Dev.onSeg_dtu (k : Pos) (f : SegRecord → SegRecord) (d : Dev) : (d.onSeg k f).dtu = d.dtu := rfl
@[simp] theorem Dev.onSeg_pcu (k : Pos) (f : SegRecord → SegRecord) (d : Dev) : (d.onSeg k f).pcu = d.pcu := rfl
@[simp] theorem Dev.onSeg_slu (k : Pos) (f : SegRecord → SegRecord) (d : Dev) : (d.onSeg k f).slu = d.slu := rfl
@[simp] theorem Dev.onSeg_pcie (k : Pos) (f : SegRecord → SegRecord) (d : Dev) : (d.onSeg k f).pcie = d.pcie := rfl
@[simp] theorem Dev.onSeg_mem (k : Pos) (f : SegRecord → SegRecord) (d : Dev) : (d.onSeg k f).mem = d.mem := rfl
@[simp] theorem Dev.onSeg_free (k : Pos) (f : SegRecord → SegRecord) (d : Dev) : (d.onSeg k f).free = d.free := rfl

@[simp] theorem Dev.onIrPos_xp (k : Pos) (f : IrPos → IrPos) (d : Dev) : (d.onIrPos k f).xp = d.xp := rfl
@[simp] theorem Dev.onIrPos_pub (k : Pos) (f : IrPos → IrPos) (d : Dev) : (d.onIrPos k f).pub = d.pub := rfl
@[simp] theorem Dev.onIrPos_le (k : Pos) (f : IrPos → IrPos) (d : Dev) : (d.onIrPos k f).le = d.le := rfl
@[simp] theorem Dev.onIrPos_cm (k : Pos) (f : IrPos → IrPos) (d : Dev) : (d.onIrPos k f).cm = d.cm := rfl
@[simp] theorem Dev.onIrPos_sc (k : Pos) (f : IrPos → IrPos) (d : Dev) : (d.onIrPos k f).sc = d.sc := rfl
@[simp] theorem Dev.onIrPos_ir (k : Pos) (f : IrPos → IrPos) (d : Dev) : (d.onIrPos k f).ir = { d.ir with pos := d.ir.pos.modify k f } := rfl
@[simp] theorem Dev.onIrPos_ic (k : Pos) (f : IrPos → IrPos) (d : Dev) : (d.onIrPos k f).ic = d.ic := rfl
@[simp] theorem Dev.onIrPos_dtu (k : Pos) (f : IrPos → IrPos) (d : Dev) : (d.onIrPos k f).dtu = d.dtu := rfl
@[simp] theorem Dev.onIrPos_pcu (k : Pos) (f : IrPos → IrPos) (d : Dev) : (d.onIrPos k f).pcu = d.pcu := rfl
@[simp] theorem Dev.onIrPos_slu (k : Pos) (f : IrPos → IrPos) (d : Dev) : (d.onIrPos k f).slu = d.slu := rfl
@[simp] theorem Dev.onIrPos_pcie (k : Pos) (f : IrPos → IrPos) (d : Dev) : (d.onIrPos k f).pcie = d.pcie := rfl
@[simp] theorem Dev.onIrPos_mem (k : Pos) (f : IrPos → IrPos) (d : Dev) : (d.onIrPos k f).mem = d.mem := rfl
@[simp] theorem Dev.onIrPos_free (k : Pos) (f : IrPos → IrPos) (d : Dev) : (d.onIrPos k f).free = d.free := rfl

@[simp] theorem Dev.onLine_xp (n : Line) (f : LineState → LineState) (d : Dev) : (d.onLine n f).xp = d.xp := rfl
@[simp] theorem Dev.onLine_pub (n : Line) (f : LineState → LineState) (d : Dev) : (d.onLine n f).pub = d.pub := rfl
@[simp] theorem Dev.onLine_le (n : Line) (f : LineState → LineState) (d : Dev) : (d.onLine n f).le = d.le := rfl
@[simp] theorem Dev.onLine_cm (n : Line) (f : LineState → LineState) (d : Dev) : (d.onLine n f).cm = d.cm := rfl
@[simp] theorem Dev.onLine_sc (n : Line) (f : LineState → LineState) (d : Dev) : (d.onLine n f).sc = d.sc := rfl
@[simp] theorem Dev.onLine_ir (n : Line) (f : LineState → LineState) (d : Dev) : (d.onLine n f).ir = d.ir := rfl
@[simp] theorem Dev.onLine_ic (n : Line) (f : LineState → LineState) (d : Dev) : (d.onLine n f).ic = d.ic := rfl
@[simp] theorem Dev.onLine_dtu (n : Line) (f : LineState → LineState) (d : Dev) : (d.onLine n f).dtu = d.dtu := rfl
@[simp] theorem Dev.onLine_pcu (n : Line) (f : LineState → LineState) (d : Dev) : (d.onLine n f).pcu = d.pcu := rfl
@[simp] theorem Dev.onLine_slu (n : Line) (f : LineState → LineState) (d : Dev) : (d.onLine n f).slu = { d.slu with lines := d.slu.lines.modify n f } := rfl
@[simp] theorem Dev.onLine_pcie (n : Line) (f : LineState → LineState) (d : Dev) : (d.onLine n f).pcie = d.pcie := rfl
@[simp] theorem Dev.onLine_mem (n : Line) (f : LineState → LineState) (d : Dev) : (d.onLine n f).mem = d.mem := rfl
@[simp] theorem Dev.onLine_free (n : Line) (f : LineState → LineState) (d : Dev) : (d.onLine n f).free = d.free := rfl

@[simp] theorem Dev.onPosting_xp (f : Posting → Posting) (d : Dev) : (d.onPosting f).xp = d.xp := rfl
@[simp] theorem Dev.onPosting_pub (f : Posting → Posting) (d : Dev) : (d.onPosting f).pub = d.pub := rfl
@[simp] theorem Dev.onPosting_le (f : Posting → Posting) (d : Dev) : (d.onPosting f).le = d.le := rfl
@[simp] theorem Dev.onPosting_cm (f : Posting → Posting) (d : Dev) : (d.onPosting f).cm = d.cm := rfl
@[simp] theorem Dev.onPosting_sc (f : Posting → Posting) (d : Dev) : (d.onPosting f).sc = d.sc := rfl
@[simp] theorem Dev.onPosting_ir (f : Posting → Posting) (d : Dev) : (d.onPosting f).ir = d.ir := rfl
@[simp] theorem Dev.onPosting_ic (f : Posting → Posting) (d : Dev) : (d.onPosting f).ic = d.ic := rfl
@[simp] theorem Dev.onPosting_dtu (f : Posting → Posting) (d : Dev) : (d.onPosting f).dtu = { d.dtu with posting := d.dtu.posting.map f } := rfl
@[simp] theorem Dev.onPosting_pcu (f : Posting → Posting) (d : Dev) : (d.onPosting f).pcu = d.pcu := rfl
@[simp] theorem Dev.onPosting_slu (f : Posting → Posting) (d : Dev) : (d.onPosting f).slu = d.slu := rfl
@[simp] theorem Dev.onPosting_pcie (f : Posting → Posting) (d : Dev) : (d.onPosting f).pcie = d.pcie := rfl
@[simp] theorem Dev.onPosting_mem (f : Posting → Posting) (d : Dev) : (d.onPosting f).mem = d.mem := rfl
@[simp] theorem Dev.onPosting_free (f : Posting → Posting) (d : Dev) : (d.onPosting f).free = d.free := rfl

@[simp] theorem Dev.onSec_xp (i : SecId) (f : Sec → Sec) (d : Dev) : (d.onSec i f).xp = d.xp := rfl
@[simp] theorem Dev.onSec_pub (i : SecId) (f : Sec → Sec) (d : Dev) : (d.onSec i f).pub = d.pub.onSec i f := rfl
@[simp] theorem Dev.onSec_le (i : SecId) (f : Sec → Sec) (d : Dev) : (d.onSec i f).le = d.le := rfl
@[simp] theorem Dev.onSec_cm (i : SecId) (f : Sec → Sec) (d : Dev) : (d.onSec i f).cm = d.cm := rfl
@[simp] theorem Dev.onSec_sc (i : SecId) (f : Sec → Sec) (d : Dev) : (d.onSec i f).sc = d.sc := rfl
@[simp] theorem Dev.onSec_ir (i : SecId) (f : Sec → Sec) (d : Dev) : (d.onSec i f).ir = d.ir := rfl
@[simp] theorem Dev.onSec_ic (i : SecId) (f : Sec → Sec) (d : Dev) : (d.onSec i f).ic = d.ic := rfl
@[simp] theorem Dev.onSec_dtu (i : SecId) (f : Sec → Sec) (d : Dev) : (d.onSec i f).dtu = d.dtu := rfl
@[simp] theorem Dev.onSec_pcu (i : SecId) (f : Sec → Sec) (d : Dev) : (d.onSec i f).pcu = d.pcu := rfl
@[simp] theorem Dev.onSec_slu (i : SecId) (f : Sec → Sec) (d : Dev) : (d.onSec i f).slu = d.slu := rfl
@[simp] theorem Dev.onSec_pcie (i : SecId) (f : Sec → Sec) (d : Dev) : (d.onSec i f).pcie = d.pcie := rfl
@[simp] theorem Dev.onSec_mem (i : SecId) (f : Sec → Sec) (d : Dev) : (d.onSec i f).mem = d.mem := rfl
@[simp] theorem Dev.onSec_free (i : SecId) (f : Sec → Sec) (d : Dev) : (d.onSec i f).free = d.free := rfl

@[simp] theorem Dev.setQueue_xp (k : Pos) (q : List Msg) (d : Dev) : (d.setQueue k q).xp = d.xp := rfl
@[simp] theorem Dev.setQueue_pub (k : Pos) (q : List Msg) (d : Dev) : (d.setQueue k q).pub = d.pub := rfl
@[simp] theorem Dev.setQueue_le (k : Pos) (q : List Msg) (d : Dev) : (d.setQueue k q).le = { d.le with queues := d.le.queues.set k q } := rfl
@[simp] theorem Dev.setQueue_cm (k : Pos) (q : List Msg) (d : Dev) : (d.setQueue k q).cm = d.cm := rfl
@[simp] theorem Dev.setQueue_sc (k : Pos) (q : List Msg) (d : Dev) : (d.setQueue k q).sc = d.sc := rfl
@[simp] theorem Dev.setQueue_ir (k : Pos) (q : List Msg) (d : Dev) : (d.setQueue k q).ir = d.ir := rfl
@[simp] theorem Dev.setQueue_ic (k : Pos) (q : List Msg) (d : Dev) : (d.setQueue k q).ic = d.ic := rfl
@[simp] theorem Dev.setQueue_dtu (k : Pos) (q : List Msg) (d : Dev) : (d.setQueue k q).dtu = d.dtu := rfl
@[simp] theorem Dev.setQueue_pcu (k : Pos) (q : List Msg) (d : Dev) : (d.setQueue k q).pcu = d.pcu := rfl
@[simp] theorem Dev.setQueue_slu (k : Pos) (q : List Msg) (d : Dev) : (d.setQueue k q).slu = d.slu := rfl
@[simp] theorem Dev.setQueue_pcie (k : Pos) (q : List Msg) (d : Dev) : (d.setQueue k q).pcie = d.pcie := rfl
@[simp] theorem Dev.setQueue_mem (k : Pos) (q : List Msg) (d : Dev) : (d.setQueue k q).mem = d.mem := rfl
@[simp] theorem Dev.setQueue_free (k : Pos) (q : List Msg) (d : Dev) : (d.setQueue k q).free = d.free := rfl

@[simp] theorem Dev.addResult_xp (r : CtrlResult) (d : Dev) : (d.addResult r).xp = d.xp := rfl
@[simp] theorem Dev.addResult_pub (r : CtrlResult) (d : Dev) : (d.addResult r).pub = d.pub := rfl
@[simp] theorem Dev.addResult_le (r : CtrlResult) (d : Dev) : (d.addResult r).le = { d.le with results := d.le.results ++ [r] } := rfl
@[simp] theorem Dev.addResult_cm (r : CtrlResult) (d : Dev) : (d.addResult r).cm = d.cm := rfl
@[simp] theorem Dev.addResult_sc (r : CtrlResult) (d : Dev) : (d.addResult r).sc = d.sc := rfl
@[simp] theorem Dev.addResult_ir (r : CtrlResult) (d : Dev) : (d.addResult r).ir = d.ir := rfl
@[simp] theorem Dev.addResult_ic (r : CtrlResult) (d : Dev) : (d.addResult r).ic = d.ic := rfl
@[simp] theorem Dev.addResult_dtu (r : CtrlResult) (d : Dev) : (d.addResult r).dtu = d.dtu := rfl
@[simp] theorem Dev.addResult_pcu (r : CtrlResult) (d : Dev) : (d.addResult r).pcu = d.pcu := rfl
@[simp] theorem Dev.addResult_slu (r : CtrlResult) (d : Dev) : (d.addResult r).slu = d.slu := rfl
@[simp] theorem Dev.addResult_pcie (r : CtrlResult) (d : Dev) : (d.addResult r).pcie = d.pcie := rfl
@[simp] theorem Dev.addResult_mem (r : CtrlResult) (d : Dev) : (d.addResult r).mem = d.mem := rfl
@[simp] theorem Dev.addResult_free (r : CtrlResult) (d : Dev) : (d.addResult r).free = d.free := rfl

@[simp] theorem Dev.setEngine_xp (a : Option Access) (d : Dev) : (d.setEngine a).xp = { d.xp with engine := a } := rfl
@[simp] theorem Dev.setEngine_pub (a : Option Access) (d : Dev) : (d.setEngine a).pub = d.pub := rfl
@[simp] theorem Dev.setEngine_le (a : Option Access) (d : Dev) : (d.setEngine a).le = d.le := rfl
@[simp] theorem Dev.setEngine_cm (a : Option Access) (d : Dev) : (d.setEngine a).cm = d.cm := rfl
@[simp] theorem Dev.setEngine_sc (a : Option Access) (d : Dev) : (d.setEngine a).sc = d.sc := rfl
@[simp] theorem Dev.setEngine_ir (a : Option Access) (d : Dev) : (d.setEngine a).ir = d.ir := rfl
@[simp] theorem Dev.setEngine_ic (a : Option Access) (d : Dev) : (d.setEngine a).ic = d.ic := rfl
@[simp] theorem Dev.setEngine_dtu (a : Option Access) (d : Dev) : (d.setEngine a).dtu = d.dtu := rfl
@[simp] theorem Dev.setEngine_pcu (a : Option Access) (d : Dev) : (d.setEngine a).pcu = d.pcu := rfl
@[simp] theorem Dev.setEngine_slu (a : Option Access) (d : Dev) : (d.setEngine a).slu = d.slu := rfl
@[simp] theorem Dev.setEngine_pcie (a : Option Access) (d : Dev) : (d.setEngine a).pcie = d.pcie := rfl
@[simp] theorem Dev.setEngine_mem (a : Option Access) (d : Dev) : (d.setEngine a).mem = d.mem := rfl
@[simp] theorem Dev.setEngine_free (a : Option Access) (d : Dev) : (d.setEngine a).free = d.free := rfl

@[simp] theorem Dev.writeWindow_xp (o : Nat) (bs : List Byte) (d : Dev) : (d.writeWindow o bs).xp = d.xp := rfl
@[simp] theorem Dev.writeWindow_pub (o : Nat) (bs : List Byte) (d : Dev) : (d.writeWindow o bs).pub = d.pub := rfl
@[simp] theorem Dev.writeWindow_le (o : Nat) (bs : List Byte) (d : Dev) : (d.writeWindow o bs).le = d.le := rfl
@[simp] theorem Dev.writeWindow_cm (o : Nat) (bs : List Byte) (d : Dev) : (d.writeWindow o bs).cm = d.cm := rfl
@[simp] theorem Dev.writeWindow_sc (o : Nat) (bs : List Byte) (d : Dev) : (d.writeWindow o bs).sc = d.sc := rfl
@[simp] theorem Dev.writeWindow_ir (o : Nat) (bs : List Byte) (d : Dev) : (d.writeWindow o bs).ir = d.ir := rfl
@[simp] theorem Dev.writeWindow_ic (o : Nat) (bs : List Byte) (d : Dev) : (d.writeWindow o bs).ic = d.ic := rfl
@[simp] theorem Dev.writeWindow_dtu (o : Nat) (bs : List Byte) (d : Dev) : (d.writeWindow o bs).dtu = d.dtu := rfl
@[simp] theorem Dev.writeWindow_pcu (o : Nat) (bs : List Byte) (d : Dev) : (d.writeWindow o bs).pcu = d.pcu := rfl
@[simp] theorem Dev.writeWindow_slu (o : Nat) (bs : List Byte) (d : Dev) : (d.writeWindow o bs).slu = d.slu := rfl
@[simp] theorem Dev.writeWindow_pcie (o : Nat) (bs : List Byte) (d : Dev) : (d.writeWindow o bs).pcie = d.pcie := rfl
@[simp] theorem Dev.writeWindow_mem (o : Nat) (bs : List Byte) (d : Dev) : (d.writeWindow o bs).mem = Mem.write d.mem (d.windowAddr o) bs := rfl
@[simp] theorem Dev.writeWindow_free (o : Nat) (bs : List Byte) (d : Dev) : (d.writeWindow o bs).free = d.free := rfl

@[simp] theorem Dev.setPass_xp (p : Option ScanPass) (d : Dev) : (d.setPass p).xp = d.xp := rfl
@[simp] theorem Dev.setPass_pub (p : Option ScanPass) (d : Dev) : (d.setPass p).pub = d.pub := rfl
@[simp] theorem Dev.setPass_le (p : Option ScanPass) (d : Dev) : (d.setPass p).le = d.le := rfl
@[simp] theorem Dev.setPass_cm (p : Option ScanPass) (d : Dev) : (d.setPass p).cm = d.cm := rfl
@[simp] theorem Dev.setPass_sc (p : Option ScanPass) (d : Dev) : (d.setPass p).sc = d.sc := rfl
@[simp] theorem Dev.setPass_ir (p : Option ScanPass) (d : Dev) : (d.setPass p).ir = { d.ir with pass := p } := rfl
@[simp] theorem Dev.setPass_ic (p : Option ScanPass) (d : Dev) : (d.setPass p).ic = d.ic := rfl
@[simp] theorem Dev.setPass_dtu (p : Option ScanPass) (d : Dev) : (d.setPass p).dtu = d.dtu := rfl
@[simp] theorem Dev.setPass_pcu (p : Option ScanPass) (d : Dev) : (d.setPass p).pcu = d.pcu := rfl
@[simp] theorem Dev.setPass_slu (p : Option ScanPass) (d : Dev) : (d.setPass p).slu = d.slu := rfl
@[simp] theorem Dev.setPass_pcie (p : Option ScanPass) (d : Dev) : (d.setPass p).pcie = d.pcie := rfl
@[simp] theorem Dev.setPass_mem (p : Option ScanPass) (d : Dev) : (d.setPass p).mem = d.mem := rfl
@[simp] theorem Dev.setPass_free (p : Option ScanPass) (d : Dev) : (d.setPass p).free = d.free := rfl

@[simp] theorem Dev.setOffer_xp (r : Requester) (a : Option Access) (d : Dev) : (d.setOffer r a).xp = { d.xp with offered := d.xp.offered.set r a } := rfl
@[simp] theorem Dev.setOffer_pub (r : Requester) (a : Option Access) (d : Dev) : (d.setOffer r a).pub = d.pub := rfl
@[simp] theorem Dev.setOffer_le (r : Requester) (a : Option Access) (d : Dev) : (d.setOffer r a).le = d.le := rfl
@[simp] theorem Dev.setOffer_cm (r : Requester) (a : Option Access) (d : Dev) : (d.setOffer r a).cm = d.cm := rfl
@[simp] theorem Dev.setOffer_sc (r : Requester) (a : Option Access) (d : Dev) : (d.setOffer r a).sc = d.sc := rfl
@[simp] theorem Dev.setOffer_ir (r : Requester) (a : Option Access) (d : Dev) : (d.setOffer r a).ir = d.ir := rfl
@[simp] theorem Dev.setOffer_ic (r : Requester) (a : Option Access) (d : Dev) : (d.setOffer r a).ic = d.ic := rfl
@[simp] theorem Dev.setOffer_dtu (r : Requester) (a : Option Access) (d : Dev) : (d.setOffer r a).dtu = d.dtu := rfl
@[simp] theorem Dev.setOffer_pcu (r : Requester) (a : Option Access) (d : Dev) : (d.setOffer r a).pcu = d.pcu := rfl
@[simp] theorem Dev.setOffer_slu (r : Requester) (a : Option Access) (d : Dev) : (d.setOffer r a).slu = d.slu := rfl
@[simp] theorem Dev.setOffer_pcie (r : Requester) (a : Option Access) (d : Dev) : (d.setOffer r a).pcie = d.pcie := rfl
@[simp] theorem Dev.setOffer_mem (r : Requester) (a : Option Access) (d : Dev) : (d.setOffer r a).mem = d.mem := rfl
@[simp] theorem Dev.setOffer_free (r : Requester) (a : Option Access) (d : Dev) : (d.setOffer r a).free = d.free := rfl

@[simp] theorem Dev.serve_pub (r : Requester) (a : Access) (d : Dev) : (d.serve r a).pub = d.pub := rfl
@[simp] theorem Dev.serve_le (r : Requester) (a : Access) (d : Dev) : (d.serve r a).le = d.le := rfl
@[simp] theorem Dev.serve_cm (r : Requester) (a : Access) (d : Dev) : (d.serve r a).cm = d.cm := rfl
@[simp] theorem Dev.serve_sc (r : Requester) (a : Access) (d : Dev) : (d.serve r a).sc = d.sc := rfl
@[simp] theorem Dev.serve_ir (r : Requester) (a : Access) (d : Dev) : (d.serve r a).ir = d.ir := rfl
@[simp] theorem Dev.serve_ic (r : Requester) (a : Access) (d : Dev) : (d.serve r a).ic = d.ic := rfl
@[simp] theorem Dev.serve_dtu (r : Requester) (a : Access) (d : Dev) : (d.serve r a).dtu = d.dtu := rfl
@[simp] theorem Dev.serve_pcu (r : Requester) (a : Access) (d : Dev) : (d.serve r a).pcu = d.pcu := rfl
@[simp] theorem Dev.serve_slu (r : Requester) (a : Access) (d : Dev) : (d.serve r a).slu = d.slu := rfl
@[simp] theorem Dev.serve_pcie (r : Requester) (a : Access) (d : Dev) : (d.serve r a).pcie = d.pcie := rfl
@[simp] theorem Dev.serve_mem (r : Requester) (a : Access) (d : Dev) : (d.serve r a).mem = d.mem := rfl
@[simp] theorem Dev.serve_free (r : Requester) (a : Access) (d : Dev) : (d.serve r a).free = d.free := rfl

/-! ### Requests offered (R177) -/

/-- To offer requests changes nothing but the requests offered. -/
def OnlyOffers (a d : Dev) : Prop := d = { a with xp := { a.xp with offered := d.xp.offered } }

theorem OnlyOffers.refl (d : Dev) : OnlyOffers d d := rfl

theorem OnlyOffers.trans {a b c : Dev} (h : OnlyOffers a b) (g : OnlyOffers b c) : OnlyOffers a c := by
  unfold OnlyOffers at *; rw [g, h]

theorem setOffer_only (r : Requester) (a : Option Access) (d : Dev) : OnlyOffers d (d.setOffer r a) := rfl

theorem offerOne_only (r : Requester) (d : Dev) : OnlyOffers d (d.offerOne r) := by
  unfold Dev.offerOne; split
  · exact setOffer_only _ _ _
  · exact OnlyOffers.refl _

theorem offerAll_only (d : Dev) : OnlyOffers d d.offerAll := by
  unfold Dev.offerAll; split
  · have : ∀ (l : List Requester) (e : Dev), OnlyOffers d e → OnlyOffers d (l.foldl (fun d r => d.offerOne r) e) := by
      intro l
      induction l with
      | nil => exact fun _ h => h
      | cons r l ih => exact fun e h => ih _ (h.trans (offerOne_only r e))
    exact this _ _ (OnlyOffers.refl d)
  · exact OnlyOffers.refl _

theorem Dev.offerAll_eq (d : Dev) : d.offerAll = { d with xp := { d.xp with offered := d.offerAll.xp.offered } } :=
  offerAll_only d

theorem Dev.offerAll_xp (d : Dev) : d.offerAll.xp = { d.xp with offered := d.offerAll.xp.offered } :=
  (congrArg Dev.xp d.offerAll_eq :)
@[simp] theorem Dev.offerAll_pub (d : Dev) : d.offerAll.pub = d.pub := (congrArg Dev.pub d.offerAll_eq :)
@[simp] theorem Dev.offerAll_le (d : Dev) : d.offerAll.le = d.le := (congrArg Dev.le d.offerAll_eq :)
@[simp] theorem Dev.offerAll_cm (d : Dev) : d.offerAll.cm = d.cm := (congrArg Dev.cm d.offerAll_eq :)
@[simp] theorem Dev.offerAll_sc (d : Dev) : d.offerAll.sc = d.sc := (congrArg Dev.sc d.offerAll_eq :)
@[simp] theorem Dev.offerAll_ir (d : Dev) : d.offerAll.ir = d.ir := (congrArg Dev.ir d.offerAll_eq :)
@[simp] theorem Dev.offerAll_ic (d : Dev) : d.offerAll.ic = d.ic := (congrArg Dev.ic d.offerAll_eq :)
@[simp] theorem Dev.offerAll_dtu (d : Dev) : d.offerAll.dtu = d.dtu := (congrArg Dev.dtu d.offerAll_eq :)
@[simp] theorem Dev.offerAll_pcu (d : Dev) : d.offerAll.pcu = d.pcu := (congrArg Dev.pcu d.offerAll_eq :)
@[simp] theorem Dev.offerAll_slu (d : Dev) : d.offerAll.slu = d.slu := (congrArg Dev.slu d.offerAll_eq :)
@[simp] theorem Dev.offerAll_pcie (d : Dev) : d.offerAll.pcie = d.pcie := (congrArg Dev.pcie d.offerAll_eq :)
@[simp] theorem Dev.offerAll_mem (d : Dev) : d.offerAll.mem = d.mem := (congrArg Dev.mem d.offerAll_eq :)
@[simp] theorem Dev.offerAll_free (d : Dev) : d.offerAll.free = d.free := (congrArg Dev.free d.offerAll_eq :)

/-! ### Where nothing is learnt, and nothing offered -/

/-- In RELEASING the shadows stay as they stand (R117). -/
theorem Dev.learnShadow_releasing (k : Pos) (f : Shadow → Shadow) {d : Dev} (h : d.sc.dock = .releasing) :
    d.learnShadow k f = d := if_pos h

theorem Dev.learnShadow_elsewhere (k : Pos) (f : Shadow → Shadow) {d : Dev} (h : d.sc.dock ≠ .releasing) :
    d.learnShadow k f = d.onShadow k f := if_neg h

/-- A SET of session items that is not that of the configuring under way does no more than its DONE does to the node (R112,
R123, log 67). -/
theorem Dev.sessionResult_late (k : Pos) (items : List SetItem) (n : Nat) (c : ResultCode) {d : Dev}
    (h : d.awaitsSession k n = false) :
    d.sessionResult k items n c = if c = .done then d.tokenTaken k items else d := by
  unfold Dev.sessionResult
  cases c <;> simp [h]

/-- At a stall's end a write of the fault log on offer is chosen anew, and nothing else changes (R81, R177). -/
theorem Dev.reofferLog_log {d : Dev} (h : d.xp.offered.cm.any Access.isLog = true) :
    d.reofferLog = d.setOffer .cm d.logAccess := if_pos h

theorem Dev.reofferLog_other {d : Dev} (h : ¬ d.xp.offered.cm.any Access.isLog = true) : d.reofferLog = d := if_neg h

/-- While a stall stands the Exchange Port and the Display Transfer Unit alone have something the engine may take (R179). -/
theorem Dev.nextAccess_stall {d : Dev} (hw : d.working = true) (h : d.xp.windowStall = true) (r : Requester) :
    d.nextAccess r = match r with
      | .xp => d.xp.stallAccess
      | .dtu => d.stallPixels
      | .cm => none | .ir => none | .ic => none := by
  unfold Dev.nextAccess
  cases hp : d.xp.part <;> cases r <;> simp_all [Dev.working]

/-- While a stall stands the engine goes round the requesters as at any other time (R177). -/
theorem Dev.nextGrant_stall {d : Dev} (he : d.xp.engine = none) (h : d.xp.windowStall = true) :
    d.nextGrant = d.xp.lastServed.after.findSome? fun r => (d.nextAccess r).map fun a => (r, a) := by
  simp [Dev.nextGrant, he, h]

/-! ### The table and the queue after an update -/

theorem Dev.entry_onEntry (k j : Pos) (f : Entry → Entry) (d : Dev) :
    (d.onEntry k f).entry j = if j = k then f (d.entry k) else d.entry j := Per6.get_modify d.cm.table k j f

theorem Dev.queue_setQueue (k j : Pos) (q : List Msg) (d : Dev) :
    (d.setQueue k q).queue j = if j = k then q else d.queue j := Per6.get_set d.le.queues k j q

/-! ### Entries that go HELD or LOST (R95, R165) -/

@[simp] theorem Dev.leaveBlock_cm (k : Pos) (d : Dev) : (d.leaveBlock k).cm = d.cm := rfl
@[simp] theorem Dev.leaveBlock_pcu (k : Pos) (d : Dev) :
    (d.leaveBlock k).pcu = { d.pcu with delivered := d.pcu.delivered.set k none } := rfl
@[simp] theorem Dev.leaveBlock_stamp (k : Pos) (d : Dev) : (d.leaveBlock k).le.stamp = d.le.stamp := rfl
@[simp] theorem Dev.entry_leaveBlock (k j : Pos) (d : Dev) : (d.leaveBlock k).entry j = d.entry j := rfl

/-- No STATUS_BLOCK that has not been sent is left in the queue of the position. -/
theorem Dev.queue_leaveBlock (k j : Pos) (d : Dev) :
    (d.leaveBlock k).queue j =
      if j = k then (d.queue k).filter fun m => !(m.payload.isStatusBlock && m.tag.isNone) else d.queue j :=
  Per6.get_modify d.le.queues k j _

@[simp] theorem Dev.loseHeld_stamp (k : Pos) (d : Dev) : (d.loseHeld k).le.stamp = d.le.stamp := by
  unfold Dev.loseHeld; split <;> rfl

theorem Dev.entry_loseHeld (k j : Pos) (d : Dev) :
    (d.loseHeld k).entry j =
      if j = k ∧ (d.entry j).awaitsResume = true then (d.entry j).lostFrom d.le.stamp else d.entry j := by
  unfold Dev.loseHeld
  by_cases e : j = k
  · subst e; split <;> simp [Dev.entry_onEntry, *]
  · split <;> simp [Dev.entry_onEntry, e]

theorem Dev.delivered_loseHeld (k j : Pos) (d : Dev) :
    (d.loseHeld k).pcu.delivered.get j =
      if j = k ∧ (d.entry j).awaitsResume = true then none else d.pcu.delivered.get j := by
  unfold Dev.loseHeld
  by_cases e : j = k
  · subst e; split <;> simp [*]
  · split <;> simp [e, Per6.get_set, Dev.onEntry]

theorem Dev.queue_loseHeld (k j : Pos) (d : Dev) :
    (d.loseHeld k).queue j =
      if j = k ∧ (d.entry j).awaitsResume = true then
        (d.queue j).filter fun m => !(m.payload.isStatusBlock && m.tag.isNone)
      else d.queue j := by
  unfold Dev.loseHeld
  by_cases e : j = k
  · subst e; split <;> simp [Dev.queue_leaveBlock, *] <;> rfl
  · split <;> simp [Dev.queue_leaveBlock, e] <;> rfl

/-- The Session Controller's state and host memory are left by the losses of a failed return pass. -/
theorem Dev.loseFrom_leaves (k : Pos) (d : Dev) : (d.loseFrom k).sc = d.sc ∧ (d.loseFrom k).mem = d.mem := by
  unfold Dev.loseFrom
  generalize behind k = l
  induction l generalizing d with
  | nil => exact ⟨rfl, rfl⟩
  | cons i l ih =>
    have one : (d.loseHeld i).sc = d.sc ∧ (d.loseHeld i).mem = d.mem := by unfold Dev.loseHeld; split <;> exact ⟨rfl, rfl⟩
    rw [List.foldl_cons, (ih _).1, (ih _).2]
    exact one

/-- Everything loseFrom does to a position: an entry at k or behind that is HELD with a resume state is LOST from now on, its
delivered block UNKNOWN and no unsent STATUS_BLOCK left in its queue; every other position is as it was. -/
theorem Dev.loseFrom_at (k j : Pos) (d : Dev) :
    let gone := k.toNat ≤ j.toNat ∧ (d.entry j).awaitsResume = true
    (d.loseFrom k).entry j = (if gone then (d.entry j).lostFrom d.le.stamp else d.entry j) ∧
      (d.loseFrom k).pcu.delivered.get j = (if gone then none else d.pcu.delivered.get j) ∧
      (d.loseFrom k).queue j =
        (if gone then (d.queue j).filter fun m => !(m.payload.isStatusBlock && m.tag.isNone) else d.queue j) := by
  have fold : ∀ (l : List Pos), l.Nodup → ∀ e : Dev, e.le.stamp = d.le.stamp →
      let f := l.foldl (fun d i => d.loseHeld i) e
      let gone := j ∈ l ∧ (e.entry j).awaitsResume = true
      f.entry j = (if gone then (e.entry j).lostFrom d.le.stamp else e.entry j) ∧
        f.pcu.delivered.get j = (if gone then none else e.pcu.delivered.get j) ∧
        f.queue j = (if gone then (e.queue j).filter fun m => !(m.payload.isStatusBlock && m.tag.isNone) else e.queue j) := by
    intro l
    induction l with
    | nil => intro _ e _; simp
    | cons i l ih =>
      intro hn e hs
      have hi : i ∉ l := (List.nodup_cons.mp hn).1
      have h := ih (List.nodup_cons.mp hn).2 (e.loseHeld i) (by simp [hs])
      dsimp only [List.foldl_cons] at h ⊢
      rw [h.1, h.2.1, h.2.2, Dev.entry_loseHeld, Dev.delivered_loseHeld, Dev.queue_loseHeld, hs]
      by_cases ji : j = i
      · subst ji
        by_cases a : (e.entry j).awaitsResume = true <;> simp [hi, a]
      · simp [ji]
  have mem : j ∈ behind k ↔ k.toNat ≤ j.toNat := by
    simp only [behind, List.mem_filter, decide_eq_true_eq, and_iff_right_iff_imp]
    intro _; cases j <;> decide
  have := fold (behind k) (by cases k <;> decide) d rfl
  simpa only [mem, Dev.loseFrom] using this

/-! ### A command -/

/-- A command changes the part and leaves the queue of commands. -/
@[simp] theorem State.run_eq (f : Dev → Dev) (s : State) : s.run f = .next { s with dev := f s.dev } := rfl

@[simp] theorem State.runSettled_eq (f : Dev → Dev) (s : State) :
    s.runSettled f = .next { s with dev := Dev.settle s.dev (f s.dev) } := rfl

@[simp] theorem State.runOffered_eq (f : Dev → Dev) (s : State) :
    s.runOffered f = .next { s with dev := (f s.dev).offerAll } := rfl

end Sys2Proof.Machine
end

