-- ==== Sys2Proof/Laws/Settle.lean ====
section
/-! SUPPORT. What follows a step in the same superframe leaves everything but grants, sections, the resume timer, the blocked marks and the requests offered: Settled. -/
namespace Sys2Proof.Safety

open Sys2Proof.Machine

theorem Settled.refl (d : Dev) : Settled d d := ⟨rfl, rfl, rfl, rfl, rfl, rfl, rfl, rfl, rfl, rfl, rfl, fun _ => rfl, rfl, rfl⟩

theorem Settled.trans {a b c : Dev} (h : Settled a b) (g : Settled b c) : Settled a c where
  xp := by have := g.xp; rw [h.xp] at this; exact this
  le := g.le.trans h.le
  sc := g.sc.trans h.sc
  ic := g.ic.trans h.ic
  dtu := g.dtu.trans h.dtu
  slu := g.slu.trans h.slu
  pcie := g.pcie.trans h.pcie
  mem := g.mem.trans h.mem
  free := g.free.trans h.free
  cm := by have := g.cm; rw [h.cm] at this; exact this
  ir := by have := g.ir; rw [h.ir] at this; exact this
  settings k := by have := g.settings k; rw [h.settings k] at this; exact this
  pcu := by have := g.pcu; rw [h.pcu] at this; exact this
  pub := by have := g.pub; rw [h.pub] at this; exact this

theorem Settled.foldl {α : Type} {l : List α} {f : Dev → α → Dev} {a d : Dev} (h : Settled a d)
    (hf : ∀ d x, Settled a d → Settled a (f d x)) : Settled a (l.foldl f d) := by
  induction l generalizing d with
  | nil => exact h
  | cons x l ih => exact ih (hf d x h)

theorem logFault_settled (c : FaultCode) (pk : PlaceKind) (p : Byte) (b : Bool) (x : FaultCode) (d : Dev) :
    Settled d (d.logFault c pk p b x) := ⟨rfl, rfl, rfl, rfl, rfl, rfl, rfl, rfl, rfl, rfl, rfl, fun _ => rfl, rfl, rfl⟩

theorem allocate_settled (d : Dev) : Settled d d.allocate := by
  unfold Dev.allocate
  dsimp only
  split
  · split
    · exact ⟨rfl, rfl, rfl, rfl, rfl, rfl, rfl, rfl, rfl, rfl, rfl, fun _ => rfl, rfl, rfl⟩
    · refine Settled.trans ?_ (logFault_settled _ _ _ _ _ _)
      exact ⟨rfl, rfl, rfl, rfl, rfl, rfl, rfl, rfl, rfl, rfl, rfl, fun _ => rfl, rfl, rfl⟩
  · exact ⟨rfl, rfl, rfl, rfl, rfl, rfl, rfl, rfl, rfl, rfl, rfl, fun _ => rfl, rfl, rfl⟩

theorem unblock_settled (k : Pos) (d : Dev) : Settled d (d.unblock k) := by
  unfold Dev.unblock
  split
  · exact Settled.refl d
  · split
    · exact Settled.refl d
    · refine ⟨rfl, rfl, rfl, rfl, rfl, rfl, rfl, rfl, rfl, rfl, rfl, fun j => ?_, rfl, rfl⟩
      show (d.ir.pos.modify k _).get j = _
      simp only [Dev.onIrPos, Per6.get_modify]
      split
      · next e => rw [e]
      · rfl

theorem followLost_settled (d : Dev) : Settled d d.followLost := by
  unfold Dev.followLost
  split
  · exact Settled.refl d
  · exact ⟨rfl, rfl, rfl, rfl, rfl, rfl, rfl, rfl, rfl, rfl, rfl, fun _ => rfl, rfl, rfl⟩

/-- A section that is wanted is one of the entry sections, chain, power or lines. -/
theorem wantEntry_settled (b : Bool) (k : Pos) (d : Dev) : Settled d (d.when b (Dev.wantSec (.entry k))) := by
  cases b
  · exact Settled.refl d
  · exact ⟨rfl, rfl, rfl, rfl, rfl, rfl, rfl, rfl, rfl, rfl, rfl, fun _ => rfl, rfl, rfl⟩

theorem wantSections_settled (old d : Dev) : Settled d (Dev.wantSections old d) := by
  have hsec : ∀ (b : Bool) (i : SecId) (d : Dev), (i = .chain ∨ i = .power ∨ i = .lines) → Settled d (d.when b (Dev.wantSec i)) := by
    intro b i d hi
    cases b
    · exact Settled.refl d
    · rcases hi with rfl | rfl | rfl <;>
        exact ⟨rfl, rfl, rfl, rfl, rfl, rfl, rfl, rfl, rfl, rfl, rfl, fun _ => rfl, rfl, rfl⟩
  unfold Dev.wantSections
  dsimp only
  have h0 := Settled.foldl (l := Pos.all) (f := fun e k => Dev.when (Dev.entryMoved old d k) (Dev.wantSec (.entry k)) e)
    (Settled.refl d) fun e k h => h.trans (wantEntry_settled _ k e)
  exact ((h0.trans (hsec _ _ _ (.inl rfl))).trans (hsec _ _ _ (.inr (.inl rfl)))).trans (hsec _ _ _ (.inr (.inr rfl)))

theorem wantCursor_settled (old d : Dev) : Settled d (Dev.wantCursor old d) :=
  ⟨rfl, rfl, rfl, rfl, rfl, rfl, rfl, rfl, rfl, rfl, rfl, fun _ => rfl, rfl, rfl⟩

theorem offerAll_settled (d : Dev) : Settled d d.offerAll where
  xp := d.offerAll_xp
  le := d.offerAll_le
  sc := d.offerAll_sc
  ic := d.offerAll_ic
  dtu := d.offerAll_dtu
  slu := d.offerAll_slu
  pcie := d.offerAll_pcie
  mem := d.offerAll_mem
  free := d.offerAll_free
  cm := by rw [d.offerAll_cm]
  ir := by rw [d.offerAll_ir]
  settings k := by rw [d.offerAll_ir]
  pcu := by rw [d.offerAll_pcu]
  pub := by rw [d.offerAll_pub]

/-- What follows a step changes nothing but what Settled lists. -/
theorem settle_settled (old d : Dev) : Settled d (Dev.settle old d) := by
  unfold Dev.settle
  dsimp only
  have h1 : Settled d (Dev.allocateAfter old d) := by
    unfold Dev.allocateAfter
    split
    · exact allocate_settled d
    · exact Settled.refl d
  have h2 := h1.trans (Settled.foldl (l := Pos.all) (f := fun d k => d.unblock k) (Settled.refl _)
    fun e k h => h.trans (unblock_settled k e))
  exact (((h2.trans (followLost_settled _)).trans (wantSections_settled old _)).trans (wantCursor_settled old _)).trans
    (offerAll_settled _)

end Sys2Proof.Safety
end

