-- ==== Sys2Proof/Laws/InsideOps.lean ====
section
/-! SUPPORT. Host memory, stamp, current schedule, part state and registers are left by the shared operations, power, side lines, settings and tiles: one lemma per operation. -/
namespace Sys2Proof.Safety

open Sys2Proof.Machine

/-- A change that leaves what Inside lists. -/
theorem Inside.same {a d d' : Dev} (h : Inside a d) (h1 : d'.mem = d.mem) (h2 : d'.pcie = d.pcie)
    (h3 : d'.le.stamp = d.le.stamp) (h4 : d'.le.current = d.le.current) (h5 : d'.le.gen = d.le.gen)
    (h6 : d'.xp.part = d.xp.part) (h7 : d'.xp.base = d.xp.base) (h8 : d'.xp.enable = d.xp.enable)
    (h9 : d'.xp.noticeOn = d.xp.noticeOn) (h10 : d'.xp.noticeMask = d.xp.noticeMask)
    (h11 : d'.xp.windowLow = d.xp.windowLow) (h12 : d'.xp.windowHigh = d.xp.windowHigh) : Inside a d' :=
  ⟨h1.trans h.mem, h2.trans h.pcie, h3.trans h.stamp, h4.trans h.current, h5.trans h.gen, h6.trans h.part, h7.trans h.base,
    h8.trans h.enable, h9.trans h.noticeOn, h10.trans h.noticeMask, h11.trans h.windowLow, h12.trans h.windowHigh⟩

/-- The same for a part written out field by field. -/
theorem Inside.made {xp : Xp} {pub : Pub} {le : Le} {cm : Cm} {sc : Sc} {ir : Ir} {ic : Ic} {dtu : Dtu} {pcu : Pcu} {slu : Slu}
    {pcie : Pcie} {mem : List Host.Cell} {free : Nat} {a d : Dev} (h : Inside a d) (h1 : mem = d.mem) (h2 : pcie = d.pcie)
    (h3 : le.stamp = d.le.stamp) (h4 : le.current = d.le.current) (h5 : le.gen = d.le.gen)
    (h6 : xp.part = d.xp.part) (h7 : xp.base = d.xp.base) (h8 : xp.enable = d.xp.enable)
    (h9 : xp.noticeOn = d.xp.noticeOn) (h10 : xp.noticeMask = d.xp.noticeMask)
    (h11 : xp.windowLow = d.xp.windowLow) (h12 : xp.windowHigh = d.xp.windowHigh) :
    Inside a ⟨xp, pub, le, cm, sc, ir, ic, dtu, pcu, slu, pcie, mem, free⟩ :=
  h.same h1 h2 h3 h4 h5 h6 h7 h8 h9 h10 h11 h12

theorem Inside.refl (d : Dev) : Inside d d := ⟨rfl, rfl, rfl, rfl, rfl, rfl, rfl, rfl, rfl, rfl, rfl, rfl⟩

theorem Inside.foldl {α : Type} {l : List α} {f : Dev → α → Dev} {a d : Dev} (h : Inside a d)
    (hf : ∀ d x, Inside a d → Inside a (f d x)) : Inside a (l.foldl f d) := by
  induction l generalizing d with
  | nil => exact h
  | cons x l ih => exact ih (hf d x h)

theorem when_inside {b : Bool} {f : Dev → Dev} {a d : Dev} (h : Inside a d) (hf : Inside a d → Inside a (f d)) :
    Inside a (Dev.when b f d) := by
  unfold Dev.when; split
  · exact hf h
  · exact h

theorem onXp_inside {f : Xp → Xp} {a d : Dev} (h : Inside a d) (h6 : (f d.xp).part = d.xp.part)
    (h7 : (f d.xp).base = d.xp.base) (h8 : (f d.xp).enable = d.xp.enable) (h9 : (f d.xp).noticeOn = d.xp.noticeOn)
    (h10 : (f d.xp).noticeMask = d.xp.noticeMask) (h11 : (f d.xp).windowLow = d.xp.windowLow)
    (h12 : (f d.xp).windowHigh = d.xp.windowHigh) : Inside a (d.onXp f) :=
  h.same rfl rfl rfl rfl rfl h6 h7 h8 h9 h10 h11 h12

theorem onLe_inside {f : Le → Le} {a d : Dev} (h : Inside a d) (h3 : (f d.le).stamp = d.le.stamp)
    (h4 : (f d.le).current = d.le.current) (h5 : (f d.le).gen = d.le.gen) : Inside a (d.onLe f) :=
  h.same rfl rfl h3 h4 h5 rfl rfl rfl rfl rfl rfl rfl

theorem onPub_inside {f : Pub → Pub} {a d : Dev} (h : Inside a d) : Inside a (d.onPub f) :=
  h.same rfl rfl rfl rfl rfl rfl rfl rfl rfl rfl rfl rfl

theorem onCm_inside {f : Cm → Cm} {a d : Dev} (h : Inside a d) : Inside a (d.onCm f) :=
  h.same rfl rfl rfl rfl rfl rfl rfl rfl rfl rfl rfl rfl

theorem onSc_inside {f : Sc → Sc} {a d : Dev} (h : Inside a d) : Inside a (d.onSc f) :=
  h.same rfl rfl rfl rfl rfl rfl rfl rfl rfl rfl rfl rfl

theorem onIr_inside {f : Ir → Ir} {a d : Dev} (h : Inside a d) : Inside a (d.onIr f) :=
  h.same rfl rfl rfl rfl rfl rfl rfl rfl rfl rfl rfl rfl

theorem onIc_inside {f : Ic → Ic} {a d : Dev} (h : Inside a d) : Inside a (d.onIc f) :=
  h.same rfl rfl rfl rfl rfl rfl rfl rfl rfl rfl rfl rfl

theorem onDtu_inside {f : Dtu → Dtu} {a d : Dev} (h : Inside a d) : Inside a (d.onDtu f) :=
  h.same rfl rfl rfl rfl rfl rfl rfl rfl rfl rfl rfl rfl

theorem onPcu_inside {f : Pcu → Pcu} {a d : Dev} (h : Inside a d) : Inside a (d.onPcu f) :=
  h.same rfl rfl rfl rfl rfl rfl rfl rfl rfl rfl rfl rfl

theorem onSlu_inside {f : Slu → Slu} {a d : Dev} (h : Inside a d) : Inside a (d.onSlu f) :=
  h.same rfl rfl rfl rfl rfl rfl rfl rfl rfl rfl rfl rfl


theorem bumpBy_inside {c : Cause} {n : W32} {d₀ d : Dev} (h : Inside d₀ d) : Inside d₀ (Dev.bumpBy c n d) := by
  unfold Dev.bumpBy
  try dsimp only
  repeat' first
    | with_reducible assumption
    | split
    | with_reducible refine Inside.made ?_ rfl rfl rfl rfl rfl rfl rfl rfl rfl rfl rfl rfl

theorem bump_inside {c : Cause} {d₀ d : Dev} (h : Inside d₀ d) : Inside d₀ (Dev.bump c d) := by
  unfold Dev.bump
  try dsimp only
  repeat' first
    | with_reducible assumption
    | with_reducible apply bumpBy_inside

theorem setDock_inside {s : DockState} {d₀ d : Dev} (h : Inside d₀ d) : Inside d₀ (Dev.setDock s d) := by
  unfold Dev.setDock
  try dsimp only
  repeat' first
    | with_reducible assumption
    | with_reducible apply bump_inside
    | split
    | with_reducible refine Inside.made ?_ rfl rfl rfl rfl rfl rfl rfl rfl rfl rfl rfl rfl

theorem onEntry_inside {k : Pos} {f : Entry → Entry} {d₀ d : Dev} (h : Inside d₀ d) : Inside d₀ (Dev.onEntry k f d) :=
  h.same rfl rfl rfl rfl rfl rfl rfl rfl rfl rfl rfl rfl

theorem onSeg_inside {k : Pos} {f : SegRecord → SegRecord} {d₀ d : Dev} (h : Inside d₀ d) : Inside d₀ (Dev.onSeg k f d) :=
  h.same rfl rfl rfl rfl rfl rfl rfl rfl rfl rfl rfl rfl

theorem setQueue_inside {k : Pos} {q : List Msg} {d₀ d : Dev} (h : Inside d₀ d) : Inside d₀ (Dev.setQueue k q d) :=
  h.same rfl rfl rfl rfl rfl rfl rfl rfl rfl rfl rfl rfl

theorem addResult_inside {r : CtrlResult} {d₀ d : Dev} (h : Inside d₀ d) : Inside d₀ (Dev.addResult r d) :=
  h.same rfl rfl rfl rfl rfl rfl rfl rfl rfl rfl rfl rfl

theorem submit_inside {a d : Dev} (h : Inside a d) (k : Pos) (m : Msg) : Inside a (d.submit k m).1 := by
  unfold Dev.submit
  split
  · exact addResult_inside h
  · split
    · exact h
    · exact setQueue_inside h

theorem submitted_inside {a d d' : Dev} {k : Pos} {m : Msg} {r : Submitted} (h : Inside a d) (e : d.submit k m = (d', r)) :
    Inside a d' := by
  have := submit_inside h k m; rwa [e] at this

theorem keepOffer_inside {k : Pos} {what : OfferKind} {d₀ d : Dev} (h : Inside d₀ d) : Inside d₀ (Dev.keepOffer k what d) :=
  h.same rfl rfl rfl rfl rfl rfl rfl rfl rfl rfl rfl rfl

theorem send_inside {k : Pos} {sub : Block} {payload : Payload} {d₀ d : Dev} (h : Inside d₀ d) : Inside d₀ (Dev.send k sub payload d) := by
  unfold Dev.send
  split <;> next e => first | exact keepOffer_inside (submitted_inside h e) | exact submitted_inside h e

theorem withdraw_inside {k : Pos} {p : Msg → Bool} {d₀ d : Dev} (h : Inside d₀ d) : Inside d₀ (Dev.withdraw k p d) := by
  unfold Dev.withdraw
  try dsimp only
  repeat' first
    | with_reducible assumption
    | split
    | with_reducible refine Inside.made ?_ rfl rfl rfl rfl rfl rfl rfl rfl rfl rfl rfl rfl

theorem withdrawUnsent_inside {k : Pos} {p : Msg → Bool} {d₀ d : Dev} (h : Inside d₀ d) : Inside d₀ (Dev.withdrawUnsent k p d) := by
  unfold Dev.withdrawUnsent
  try dsimp only
  repeat' first
    | with_reducible assumption
    | with_reducible apply withdraw_inside

theorem withdrawAfterFlight_inside {k : Pos} {p : Msg → Bool} {d₀ d : Dev} (h : Inside d₀ d) : Inside d₀ (Dev.withdrawAfterFlight k p d) := 
  Inside.made (withdraw_inside h) rfl rfl rfl rfl rfl rfl rfl rfl rfl rfl rfl rfl

theorem offerAll_inside {d₀ d : Dev} (h : Inside d₀ d) : Inside d₀ (Dev.offerAll d) := by
  rw [Dev.offerAll_eq]; exact h.same rfl rfl rfl rfl rfl rfl rfl rfl rfl rfl rfl rfl

theorem flush_inside {k : Pos} {d₀ d : Dev} (h : Inside d₀ d) : Inside d₀ (Dev.flush k d) :=
  h.same rfl rfl rfl rfl rfl rfl rfl rfl rfl rfl rfl rfl

theorem thaw_inside {k : Pos} {d₀ d : Dev} (h : Inside d₀ d) : Inside d₀ (Dev.thaw k d) :=
  h.same rfl rfl rfl rfl rfl rfl rfl rfl rfl rfl rfl rfl

theorem schedule_inside {k : Pos} {d₀ d : Dev} (h : Inside d₀ d) : Inside d₀ (Dev.schedule k d) :=
  h.same rfl rfl rfl rfl rfl rfl rfl rfl rfl rfl rfl rfl

theorem unschedule_inside {k : Pos} {d₀ d : Dev} (h : Inside d₀ d) : Inside d₀ (Dev.unschedule k d) :=
  h.same rfl rfl rfl rfl rfl rfl rfl rfl rfl rfl rfl rfl

theorem stageMarker_inside {kind : ItemKind} {position : Byte} {detail : W16} {d₀ d : Dev} (h : Inside d₀ d) : Inside d₀ (Dev.stageMarker kind position detail d) := by
  unfold Dev.stageMarker
  try dsimp only
  repeat' first
    | with_reducible assumption
    | split
    | with_reducible refine Inside.made ?_ rfl rfl rfl rfl rfl rfl rfl rfl rfl rfl rfl rfl

theorem releaseAll_inside {k : Pos} {d₀ d : Dev} (h : Inside d₀ d) : Inside d₀ (Dev.releaseAll k d) := by
  unfold Dev.releaseAll
  try dsimp only
  repeat' first
    | with_reducible assumption
    | with_reducible apply stageMarker_inside
    | split
    | with_reducible refine Inside.made ?_ rfl rfl rfl rfl rfl rfl rfl rfl rfl rfl rfl rfl

theorem closeInput_inside {k : Pos} {d₀ d : Dev} (h : Inside d₀ d) : Inside d₀ (Dev.closeInput k d) := by
  unfold Dev.closeInput
  try dsimp only
  repeat' first
    | with_reducible assumption
    | with_reducible apply releaseAll_inside
    | with_reducible refine Inside.made ?_ rfl rfl rfl rfl rfl rfl rfl rfl rfl rfl rfl rfl

theorem openInput_inside {k : Pos} {d₀ d : Dev} (h : Inside d₀ d) : Inside d₀ (Dev.openInput k d) := by
  unfold Dev.openInput
  try dsimp only
  repeat' first
    | with_reducible assumption
    | with_reducible apply releaseAll_inside
    | with_reducible refine Inside.made ?_ rfl rfl rfl rfl rfl rfl rfl rfl rfl rfl rfl rfl

theorem logFault_inside {code : FaultCode} {placeKind : PlaceKind} {place : Byte} {localized : Bool} {detail : FaultCode} {d₀ d : Dev} (h : Inside d₀ d) : Inside d₀ (Dev.logFault code placeKind place localized detail d) := by
  unfold Dev.logFault
  try dsimp only
  repeat' first
    | with_reducible assumption
    | split
    | with_reducible refine Inside.made ?_ rfl rfl rfl rfl rfl rfl rfl rfl rfl rfl rfl rfl

theorem wantApplied_inside {k : Pos} {d₀ d : Dev} (h : Inside d₀ d) : Inside d₀ (Dev.wantApplied k d) :=
  h.same rfl rfl rfl rfl rfl rfl rfl rfl rfl rfl rfl rfl

theorem onIrPos_inside {k : Pos} {f : IrPos → IrPos} {d₀ d : Dev} (h : Inside d₀ d) : Inside d₀ (Dev.onIrPos k f d) :=
  h.same rfl rfl rfl rfl rfl rfl rfl rfl rfl rfl rfl rfl

theorem checkDegraded_inside {k : Pos} {d₀ d : Dev} (h : Inside d₀ d) : Inside d₀ (Dev.checkDegraded k d) := by
  unfold Dev.checkDegraded
  try dsimp only
  repeat' first
    | with_reducible assumption
    | with_reducible apply bump_inside
    | split
    | with_reducible refine Inside.made ?_ rfl rfl rfl rfl rfl rfl rfl rfl rfl rfl rfl rfl

theorem setThreshold_inside {t : W16} {d₀ d : Dev} (h : Inside d₀ d) : Inside d₀ (Dev.setThreshold t d) := by
  unfold Dev.setThreshold
  try dsimp only
  repeat' first
    | with_reducible assumption
    | with_reducible apply checkDegraded_inside
    | with_reducible refine Inside.foldl ?_ (fun _ _ _ => ?_)
    | split
    | with_reducible refine Inside.made ?_ rfl rfl rfl rfl rfl rfl rfl rfl rfl rfl rfl rfl

theorem withdrawSupply_inside {d₀ d : Dev} (h : Inside d₀ d) : Inside d₀ (Dev.withdrawSupply d) := by
  unfold Dev.withdrawSupply
  try dsimp only
  repeat' first
    | with_reducible assumption
    | with_reducible apply withdrawUnsent_inside
    | with_reducible refine Inside.made ?_ rfl rfl rfl rfl rfl rfl rfl rfl rfl rfl rfl rfl

theorem dropSupply_inside {d₀ d : Dev} (h : Inside d₀ d) : Inside d₀ (Dev.dropSupply d) := by
  unfold Dev.dropSupply
  try dsimp only
  repeat' first
    | with_reducible assumption
    | with_reducible apply withdraw_inside
    | with_reducible refine Inside.made ?_ rfl rfl rfl rfl rfl rfl rfl rfl rfl rfl rfl rfl

theorem queueSupply_inside {d₀ d : Dev} (h : Inside d₀ d) : Inside d₀ (Dev.queueSupply d) := by
  unfold Dev.queueSupply
  split
  · exact h
  · split <;> next e => first | exact keepOffer_inside (submitted_inside h e) | exact submitted_inside h e

theorem setContract_inside {c : ContractState} {offer : Option Byte} {mismatch : Bool} {d₀ d : Dev} (h : Inside d₀ d) : Inside d₀ (Dev.setContract c offer mismatch d) := by
  unfold Dev.setContract
  try dsimp only
  repeat' first
    | with_reducible assumption
    | with_reducible apply bump_inside
    | split
    | with_reducible refine Inside.made ?_ rfl rfl rfl rfl rfl rfl rfl rfl rfl rfl rfl rfl

theorem enterBase_inside {d₀ d : Dev} (h : Inside d₀ d) : Inside d₀ (Dev.enterBase d) := by
  unfold Dev.enterBase
  try dsimp only
  repeat' first
    | with_reducible assumption
    | with_reducible apply setContract_inside
    | with_reducible apply queueSupply_inside
    | split
    | with_reducible refine Inside.made ?_ rfl rfl rfl rfl rfl rfl rfl rfl rfl rfl rfl rfl

theorem requestOffer_inside {i : Nat} {o : Offer} {d₀ d : Dev} (h : Inside d₀ d) : Inside d₀ (Dev.requestOffer i o d) := by
  unfold Dev.requestOffer
  try dsimp only
  repeat' first
    | with_reducible assumption
    | with_reducible apply setContract_inside
    | with_reducible apply queueSupply_inside

theorem select_inside {d₀ d : Dev} (h : Inside d₀ d) : Inside d₀ (Dev.select d) := by
  unfold Dev.select
  try dsimp only
  repeat' first
    | with_reducible assumption
    | with_reducible apply onPcu_inside
    | with_reducible apply withdrawSupply_inside
    | with_reducible apply requestOffer_inside
    | with_reducible apply enterBase_inside
    | split
    | with_reducible refine Inside.made ?_ rfl rfl rfl rfl rfl rfl rfl rfl rfl rfl rfl rfl

theorem supplyCause_inside {d₀ d : Dev} (h : Inside d₀ d) : Inside d₀ (Dev.supplyCause d) := by
  unfold Dev.supplyCause
  try dsimp only
  repeat' first
    | with_reducible assumption
    | with_reducible apply select_inside
    | split
    | with_reducible refine Inside.made ?_ rfl rfl rfl rfl rfl rfl rfl rfl rfl rfl rfl rfl

theorem contractNone_inside {d₀ d : Dev} (h : Inside d₀ d) : Inside d₀ (Dev.contractNone d) := by
  unfold Dev.contractNone
  try dsimp only
  repeat' first
    | with_reducible assumption
    | with_reducible apply setContract_inside
    | with_reducible apply dropSupply_inside
    | with_reducible refine Inside.made ?_ rfl rfl rfl rfl rfl rfl rfl rfl rfl rfl rfl rfl

theorem refuseOffer_inside {d₀ d : Dev} (h : Inside d₀ d) : Inside d₀ (Dev.refuseOffer d) := by
  unfold Dev.refuseOffer
  try dsimp only
  repeat' first
    | with_reducible assumption
    | with_reducible apply select_inside
    | split
    | with_reducible refine Inside.made ?_ rfl rfl rfl rfl rfl rfl rfl rfl rfl rfl rfl rfl

theorem contractResult_inside {code : ResultCode} {d₀ d : Dev} (h : Inside d₀ d) : Inside d₀ (Dev.contractResult code d) := by
  unfold Dev.contractResult
  try dsimp only
  repeat' first
    | with_reducible assumption
    | with_reducible apply setContract_inside
    | with_reducible apply onPcu_inside
    | with_reducible apply refuseOffer_inside
    | with_reducible apply queueSupply_inside
    | with_reducible apply select_inside
    | split
    | with_reducible refine Inside.made ?_ rfl rfl rfl rfl rfl rfl rfl rfl rfl rfl rfl rfl

theorem runOwed_inside {d₀ d : Dev} (h : Inside d₀ d) : Inside d₀ (Dev.runOwed d) := by
  unfold Dev.runOwed
  try dsimp only
  repeat' first
    | with_reducible assumption
    | with_reducible apply select_inside
    | split

theorem baseResult_inside {code : ResultCode} {d₀ d : Dev} (h : Inside d₀ d) : Inside d₀ (Dev.baseResult code d) := by
  unfold Dev.baseResult
  try dsimp only
  repeat' first
    | with_reducible assumption
    | with_reducible apply onPcu_inside
    | with_reducible apply runOwed_inside
    | with_reducible apply select_inside
    | with_reducible apply queueSupply_inside
    | split
    | with_reducible refine Inside.made ?_ rfl rfl rfl rfl rfl rfl rfl rfl rfl rfl rfl rfl

theorem supplyReport_inside {d₀ d : Dev} (h : Inside d₀ d) : Inside d₀ (Dev.supplyReport d) := by
  unfold Dev.supplyReport
  try dsimp only
  repeat' first
    | with_reducible assumption
    | with_reducible apply setContract_inside
    | with_reducible apply select_inside
    | split

theorem enabledChanged_inside {d₀ d : Dev} (h : Inside d₀ d) : Inside d₀ (Dev.enabledChanged d) := by
  unfold Dev.enabledChanged
  try dsimp only
  repeat' first
    | with_reducible assumption
    | with_reducible apply supplyCause_inside
    | split

theorem checkUnsent_inside {d₀ d : Dev} (h : Inside d₀ d) : Inside d₀ (Dev.checkUnsent d) := by
  unfold Dev.checkUnsent
  try dsimp only
  repeat' first
    | with_reducible assumption
    | with_reducible apply select_inside
    | split

theorem braceCheck_inside {d₀ d : Dev} (h : Inside d₀ d) : Inside d₀ (Dev.braceCheck d) := by
  unfold Dev.braceCheck
  try dsimp only
  repeat' first
    | with_reducible assumption
    | split
    | with_reducible refine Inside.made ?_ rfl rfl rfl rfl rfl rfl rfl rfl rfl rfl rfl rfl

theorem takeSupply_inside {f : CradleFields} {d₀ d : Dev} (h : Inside d₀ d) : Inside d₀ (Dev.takeSupply f d) := by
  unfold Dev.takeSupply
  try dsimp only
  repeat' first
    | with_reducible assumption
    | with_reducible apply supplyReport_inside
    | with_reducible apply enabledChanged_inside
    | with_reducible apply checkUnsent_inside
    | with_reducible apply braceCheck_inside
    | split
    | with_reducible refine Inside.made ?_ rfl rfl rfl rfl rfl rfl rfl rfl rfl rfl rfl rfl

theorem allocate_inside {d₀ d : Dev} (h : Inside d₀ d) : Inside d₀ (Dev.allocate d) := by
  unfold Dev.allocate
  try dsimp only
  repeat' first
    | with_reducible assumption
    | with_reducible apply logFault_inside
    | split
    | with_reducible refine Inside.made ?_ rfl rfl rfl rfl rfl rfl rfl rfl rfl rfl rfl rfl

theorem sendBlock_inside {k : Pos} {d₀ d : Dev} (h : Inside d₀ d) : Inside d₀ (Dev.sendBlock k d) := by
  unfold Dev.sendBlock
  split
  · exact submit_inside h _ _
  · exact h

theorem queueBlock_inside {k : Pos} {d₀ d : Dev} (h : Inside d₀ d) : Inside d₀ (Dev.queueBlock k d) := by
  unfold Dev.queueBlock
  split <;> next e => first | exact keepOffer_inside (submitted_inside h e) | exact submitted_inside h e

theorem resendBlock_inside {k : Pos} {d₀ d : Dev} (h : Inside d₀ d) : Inside d₀ (Dev.resendBlock k d) := by
  unfold Dev.resendBlock
  split
  · exact queueBlock_inside h
  · exact h

theorem withdrawBlock_inside {k : Pos} {d₀ d : Dev} (h : Inside d₀ d) : Inside d₀ (Dev.withdrawBlock k d) := by
  unfold Dev.withdrawBlock
  try dsimp only
  repeat' first
    | with_reducible assumption
    | with_reducible apply withdrawUnsent_inside
    | with_reducible refine Inside.made ?_ rfl rfl rfl rfl rfl rfl rfl rfl rfl rfl rfl rfl

theorem forgetBlock_inside {k : Pos} {d₀ d : Dev} (h : Inside d₀ d) : Inside d₀ (Dev.forgetBlock k d) :=
  h.same rfl rfl rfl rfl rfl rfl rfl rfl rfl rfl rfl rfl

theorem leaveBlock_inside {k : Pos} {d₀ d : Dev} (h : Inside d₀ d) : Inside d₀ (Dev.leaveBlock k d) :=
  forgetBlock_inside (withdrawBlock_inside h)

theorem onLine_inside {n : Line} {f : LineState → LineState} {d₀ d : Dev} (h : Inside d₀ d) : Inside d₀ (Dev.onLine n f d) :=
  h.same rfl rfl rfl rfl rfl rfl rfl rfl rfl rfl rfl rfl

theorem setStable_inside {n : Line} {v : StableLevel} {d₀ d : Dev} (h : Inside d₀ d) : Inside d₀ (Dev.setStable n v d) := by
  unfold Dev.setStable
  try dsimp only
  repeat' first
    | with_reducible assumption
    | with_reducible apply onLine_inside
    | with_reducible apply bump_inside
    | split
    | with_reducible refine Inside.made ?_ rfl rfl rfl rfl rfl rfl rfl rfl rfl rfl rfl rfl

theorem settleLine_inside {n : Line} {d₀ d : Dev} (h : Inside d₀ d) : Inside d₀ (Dev.settleLine n d) := by
  unfold Dev.settleLine
  try dsimp only
  repeat' first
    | with_reducible assumption
    | with_reducible apply setStable_inside
    | with_reducible apply onLine_inside
    | split
    | with_reducible refine Inside.made ?_ rfl rfl rfl rfl rfl rfl rfl rfl rfl rfl rfl rfl

theorem lineEffects_inside {d₀ d : Dev} (h : Inside d₀ d) : Inside d₀ (Dev.lineEffects d) := by
  unfold Dev.lineEffects
  try dsimp only
  repeat' first
    | with_reducible assumption
    | with_reducible apply braceCheck_inside
    | with_reducible refine Inside.made ?_ rfl rfl rfl rfl rfl rfl rfl rfl rfl rfl rfl rfl

theorem settleLines_inside {d₀ d : Dev} (h : Inside d₀ d) : Inside d₀ (Dev.settleLines d) := by
  unfold Dev.settleLines
  try dsimp only
  repeat' first
    | with_reducible assumption
    | with_reducible apply settleLine_inside
    | with_reducible apply lineEffects_inside
    | with_reducible refine Inside.foldl ?_ (fun _ _ _ => ?_)

theorem placeLines_inside {d₀ d : Dev} (h : Inside d₀ d) : Inside d₀ (Dev.placeLines d) := by
  unfold Dev.placeLines
  try dsimp only
  repeat' first
    | with_reducible assumption
    | with_reducible apply onLine_inside
    | with_reducible apply settleLines_inside
    | with_reducible refine Inside.foldl ?_ (fun _ _ _ => ?_)
    | with_reducible refine Inside.made ?_ rfl rfl rfl rfl rfl rfl rfl rfl rfl rfl rfl rfl

theorem takeLevels_inside {levels : Byte} {d₀ d : Dev} (h : Inside d₀ d) : Inside d₀ (Dev.takeLevels levels d) := by
  unfold Dev.takeLevels
  try dsimp only
  repeat' first
    | with_reducible assumption
    | with_reducible apply onLine_inside
    | with_reducible refine Inside.foldl ?_ (fun _ _ _ => ?_)
    | split

theorem sendLines_inside {d₀ d : Dev} (h : Inside d₀ d) : Inside d₀ (Dev.sendLines d) := by
  unfold Dev.sendLines
  dsimp only
  split
  · exact submit_inside h _ _
  · exact h

theorem confirmLines_inside {items : List SetItem} {known : Bool} {d₀ d : Dev} (h : Inside d₀ d) : Inside d₀ (Dev.confirmLines items known d) := by
  unfold Dev.confirmLines
  try dsimp only
  repeat' first
    | with_reducible assumption
    | with_reducible apply onLine_inside
    | with_reducible refine Inside.foldl ?_ (fun _ _ _ => ?_)
    | split

theorem refuseLines_inside {items : List SetItem} {d₀ d : Dev} (h : Inside d₀ d) : Inside d₀ (Dev.refuseLines items d) := by
  unfold Dev.refuseLines
  try dsimp only
  repeat' first
    | with_reducible assumption
    | with_reducible apply onLine_inside
    | with_reducible refine Inside.foldl ?_ (fun _ _ _ => ?_)
    | split
    | with_reducible refine Inside.made ?_ rfl rfl rfl rfl rfl rfl rfl rfl rfl rfl rfl rfl

theorem linesResult_inside {items : List SetItem} {code : ResultCode} {d₀ d : Dev} (h : Inside d₀ d) : Inside d₀ (Dev.linesResult items code d) := by
  unfold Dev.linesResult
  try dsimp only
  repeat' first
    | with_reducible assumption
    | with_reducible apply confirmLines_inside
    | with_reducible apply refuseLines_inside
    | with_reducible apply settleLines_inside
    | split

theorem forgetLines_inside {d₀ d : Dev} (h : Inside d₀ d) : Inside d₀ (Dev.forgetLines d) := by
  unfold Dev.forgetLines
  try dsimp only
  repeat' first
    | with_reducible assumption
    | with_reducible apply onLine_inside
    | with_reducible apply settleLines_inside
    | with_reducible refine Inside.foldl ?_ (fun _ _ _ => ?_)
    | with_reducible refine Inside.made ?_ rfl rfl rfl rfl rfl rfl rfl rfl rfl rfl rfl rfl

theorem suspendLines_inside {d₀ d : Dev} (h : Inside d₀ d) : Inside d₀ (Dev.suspendLines d) := by
  unfold Dev.suspendLines
  try dsimp only
  repeat' first
    | with_reducible assumption
    | with_reducible apply withdrawUnsent_inside
    | with_reducible apply confirmLines_inside
    | with_reducible apply settleLines_inside
    | with_reducible refine Inside.foldl ?_ (fun _ _ _ => ?_)
    | split

theorem releaseLines_inside {d₀ d : Dev} (h : Inside d₀ d) : Inside d₀ (Dev.releaseLines d) := by
  unfold Dev.releaseLines
  try dsimp only
  repeat' first
    | with_reducible assumption
    | with_reducible apply setStable_inside
    | with_reducible apply onLine_inside
    | with_reducible apply placeLines_inside
    | with_reducible refine Inside.foldl ?_ (fun _ _ _ => ?_)
    | with_reducible refine Inside.made ?_ rfl rfl rfl rfl rfl rfl rfl rfl rfl rfl rfl rfl

theorem onShadow_inside {k : Pos} {f : Shadow → Shadow} {d₀ d : Dev} (h : Inside d₀ d) : Inside d₀ (Dev.onShadow k f d) := by
  unfold Dev.onShadow
  try dsimp only
  repeat' first
    | with_reducible assumption
    | with_reducible apply onIrPos_inside
    | with_reducible refine Inside.made ?_ rfl rfl rfl rfl rfl rfl rfl rfl rfl rfl rfl rfl

theorem learnShadow_inside {k : Pos} {f : Shadow → Shadow} {d₀ d : Dev} (h : Inside d₀ d) : Inside d₀ (Dev.learnShadow k f d) := by
  unfold Dev.learnShadow
  try dsimp only
  repeat' first
    | with_reducible assumption
    | with_reducible apply onShadow_inside
    | split

theorem endPush_inside {k : Pos} {p : Push} {result : AppliedResult} {blocked : Option (List SetItem)} {d₀ d : Dev} (h : Inside d₀ d) : Inside d₀ (Dev.endPush k p result blocked d) := by
  unfold Dev.endPush
  try dsimp only
  repeat' first
    | with_reducible assumption
    | with_reducible apply onIrPos_inside
    | with_reducible apply wantApplied_inside
    | split
    | with_reducible refine Inside.made ?_ rfl rfl rfl rfl rfl rfl rfl rfl rfl rfl rfl rfl

theorem soundAttention_inside {k : Pos} {items : List SetItem} {d₀ d : Dev} (h : Inside d₀ d) : Inside d₀ (Dev.soundAttention k items d) := by
  unfold Dev.soundAttention
  try dsimp only
  repeat' first
    | with_reducible assumption
    | with_reducible apply onIrPos_inside
    | split
    | with_reducible refine Inside.made ?_ rfl rfl rfl rfl rfl rfl rfl rfl rfl rfl rfl rfl

theorem pushStep_inside {k : Pos} {d₀ d : Dev} (h : Inside d₀ d) : Inside d₀ (Dev.pushStep k d) := by
  unfold Dev.pushStep
  split
  · exact h
  · split
    · exact h
    · split
      · exact endPush_inside h
      · dsimp only
        split <;> next e => first
          | exact soundAttention_inside (submitted_inside h e)
          | exact keepOffer_inside (submitted_inside h e)
          | exact submitted_inside h e

theorem startPush_inside {k : Pos} {gen : W32} {first : Bool} {d₀ d : Dev} (h : Inside d₀ d) : Inside d₀ (Dev.startPush k gen first d) := by
  unfold Dev.startPush
  try dsimp only
  repeat' first
    | with_reducible assumption
    | with_reducible apply onIrPos_inside
    | with_reducible apply pushStep_inside
    | with_reducible refine Inside.made ?_ rfl rfl rfl rfl rfl rfl rfl rfl rfl rfl rfl rfl

theorem suspendPush_inside {k : Pos} {d₀ d : Dev} (h : Inside d₀ d) : Inside d₀ (Dev.suspendPush k d) := by
  unfold Dev.suspendPush
  try dsimp only
  repeat' first
    | with_reducible assumption
    | with_reducible apply withdrawAfterFlight_inside
    | with_reducible apply learnShadow_inside
    | with_reducible apply onIrPos_inside
    | with_reducible refine Inside.foldl ?_ (fun _ _ _ => ?_)
    | split
    | with_reducible refine Inside.made ?_ rfl rfl rfl rfl rfl rfl rfl rfl rfl rfl rfl rfl

theorem releaseSettings_inside {k : Pos} {d₀ d : Dev} (h : Inside d₀ d) : Inside d₀ (Dev.releaseSettings k d) := by
  unfold Dev.releaseSettings
  try dsimp only
  repeat' first
    | with_reducible assumption
    | with_reducible apply onIrPos_inside
    | with_reducible apply wantApplied_inside
    | with_reducible refine Inside.made ?_ rfl rfl rfl rfl rfl rfl rfl rfl rfl rfl rfl rfl

theorem resetSettings_inside {k : Pos} {d₀ d : Dev} (h : Inside d₀ d) : Inside d₀ (Dev.resetSettings k d) := by
  unfold Dev.resetSettings
  try dsimp only
  repeat' first
    | with_reducible assumption
    | with_reducible apply onIrPos_inside
    | with_reducible apply wantApplied_inside
    | with_reducible refine Inside.made ?_ rfl rfl rfl rfl rfl rfl rfl rfl rfl rfl rfl rfl

theorem abandonPushes_inside {d₀ d : Dev} (h : Inside d₀ d) : Inside d₀ (Dev.abandonPushes d) := by
  unfold Dev.abandonPushes
  try dsimp only
  repeat' first
    | with_reducible assumption
    | with_reducible apply onIrPos_inside
    | with_reducible refine Inside.foldl ?_ (fun _ _ _ => ?_)
    | with_reducible refine Inside.made ?_ rfl rfl rfl rfl rfl rfl rfl rfl rfl rfl rfl rfl

theorem settingResult_inside {k : Pos} {items : List SetItem} {code : ResultCode} {d₀ d : Dev} (h : Inside d₀ d) : Inside d₀ (Dev.settingResult k items code d) := by
  unfold Dev.settingResult
  try dsimp only
  repeat' first
    | with_reducible assumption
    | with_reducible apply endPush_inside
    | with_reducible apply learnShadow_inside
    | with_reducible apply pushStep_inside
    | with_reducible apply onIrPos_inside
    | split
    | with_reducible refine Inside.made ?_ rfl rfl rfl rfl rfl rfl rfl rfl rfl rfl rfl rfl

theorem onPosting_inside {f : Posting → Posting} {d₀ d : Dev} (h : Inside d₀ d) : Inside d₀ (Dev.onPosting f d) :=
  h.same rfl rfl rfl rfl rfl rfl rfl rfl rfl rfl rfl rfl

theorem emptyReady_inside {d₀ d : Dev} (h : Inside d₀ d) : Inside d₀ (Dev.emptyReady d) := by
  unfold Dev.emptyReady
  try dsimp only
  repeat' first
    | with_reducible assumption
    | with_reducible apply onPosting_inside
    | with_reducible apply onDtu_inside
    | with_reducible refine Inside.made ?_ rfl rfl rfl rfl rfl rfl rfl rfl rfl rfl rfl rfl

theorem beginBatch_inside {b : Nat} {d₀ d : Dev} (h : Inside d₀ d) : Inside d₀ (Dev.beginBatch b d) := by
  unfold Dev.beginBatch
  try dsimp only
  repeat' first
    | with_reducible assumption
    | split
    | with_reducible refine Inside.made ?_ rfl rfl rfl rfl rfl rfl rfl rfl rfl rfl rfl rfl

theorem restartBatch_inside {d₀ d : Dev} (h : Inside d₀ d) : Inside d₀ (Dev.restartBatch d) := by
  unfold Dev.restartBatch
  try dsimp only
  repeat' first
    | with_reducible assumption
    | with_reducible apply beginBatch_inside
    | split

theorem endPosting_inside {outcome : UpdateOutcome} {reason : UpdateReason} {d₀ d : Dev} (h : Inside d₀ d) : Inside d₀ (Dev.endPosting outcome reason d) := by
  unfold Dev.endPosting
  try dsimp only
  repeat' first
    | with_reducible assumption
    | with_reducible apply onEntry_inside
    | split
    | with_reducible refine Inside.made ?_ rfl rfl rfl rfl rfl rfl rfl rfl rfl rfl rfl rfl

theorem queueDiscard_inside {k : Pos} {d₀ d : Dev} (h : Inside d₀ d) : Inside d₀ (Dev.queueDiscard k d) := by
  unfold Dev.queueDiscard
  try dsimp only
  repeat' first
    | with_reducible assumption
    | with_reducible apply send_inside

theorem failPosting_inside {reason : UpdateReason} {d₀ d : Dev} (h : Inside d₀ d) : Inside d₀ (Dev.failPosting reason d) := by
  unfold Dev.failPosting
  try dsimp only
  repeat' first
    | with_reducible assumption
    | with_reducible apply endPosting_inside
    | with_reducible apply queueDiscard_inside
    | split

theorem endCommit_inside {stagingEmpty : Bool} {d₀ d : Dev} (h : Inside d₀ d) : Inside d₀ (Dev.endCommit stagingEmpty d) := by
  unfold Dev.endCommit
  try dsimp only
  repeat' first
    | with_reducible assumption
    | with_reducible apply withdraw_inside
    | with_reducible apply onPosting_inside
    | with_reducible apply endPosting_inside
    | with_reducible apply beginBatch_inside
    | with_reducible apply queueDiscard_inside
    | split
    | with_reducible refine Inside.made ?_ rfl rfl rfl rfl rfl rfl rfl rfl rfl rfl rfl rfl

theorem enterCommitting_inside {d₀ d : Dev} (h : Inside d₀ d) : Inside d₀ (Dev.enterCommitting d) := by
  unfold Dev.enterCommitting
  try dsimp only
  repeat' first
    | with_reducible assumption
    | with_reducible apply onPosting_inside
    | with_reducible apply send_inside
    | split
    | with_reducible refine Inside.made ?_ rfl rfl rfl rfl rfl rfl rfl rfl rfl rfl rfl rfl

theorem takeReceived_inside {r : Nat} {d₀ d : Dev} (h : Inside d₀ d) : Inside d₀ (Dev.takeReceived r d) := by
  unfold Dev.takeReceived
  try dsimp only
  repeat' first
    | with_reducible assumption
    | with_reducible apply restartBatch_inside
    | with_reducible apply onPosting_inside
    | with_reducible apply enterCommitting_inside
    | split
    | with_reducible refine Inside.made ?_ rfl rfl rfl rfl rfl rfl rfl rfl rfl rfl rfl rfl

theorem takeDisplay_inside {k : Pos} {f : DisplayFields} {d₀ d : Dev} (h : Inside d₀ d) : Inside d₀ (Dev.takeDisplay k f d) := by
  unfold Dev.takeDisplay
  try dsimp only
  repeat' first
    | with_reducible assumption
    | with_reducible apply onPosting_inside
    | with_reducible apply queueDiscard_inside
    | with_reducible apply takeReceived_inside
    | with_reducible apply endCommit_inside
    | with_reducible apply restartBatch_inside
    | split
    | with_reducible refine Inside.made ?_ rfl rfl rfl rfl rfl rfl rfl rfl rfl rfl rfl rfl

theorem commitResult_inside {k : Pos} {tag : Byte} {code : ResultCode} {d₀ d : Dev} (h : Inside d₀ d) : Inside d₀ (Dev.commitResult k tag code d) := by
  unfold Dev.commitResult
  try dsimp only
  repeat' first
    | with_reducible assumption
    | with_reducible apply failPosting_inside
    | with_reducible apply noProgress_inside
    | with_reducible apply onPosting_inside
    | with_reducible apply restartBatch_inside
    | with_reducible apply send_inside
    | split
    | with_reducible refine Inside.made ?_ rfl rfl rfl rfl rfl rfl rfl rfl rfl rfl rfl rfl

theorem waitPosting_inside {k : Pos} {d₀ d : Dev} (h : Inside d₀ d) : Inside d₀ (Dev.waitPosting k d) := by
  unfold Dev.waitPosting
  try dsimp only
  repeat' first
    | with_reducible assumption
    | with_reducible apply onPosting_inside
    | with_reducible apply emptyReady_inside
    | with_reducible apply withdrawUnsent_inside
    | split
    | with_reducible refine Inside.made ?_ rfl rfl rfl rfl rfl rfl rfl rfl rfl rfl rfl rfl

theorem resumePosting_inside {k : Pos} {d₀ d : Dev} (h : Inside d₀ d) : Inside d₀ (Dev.resumePosting k d) := by
  unfold Dev.resumePosting
  try dsimp only
  repeat' first
    | with_reducible assumption
    | with_reducible apply onPosting_inside
    | with_reducible apply restartBatch_inside
    | split
    | with_reducible refine Inside.made ?_ rfl rfl rfl rfl rfl rfl rfl rfl rfl rfl rfl rfl

theorem returnPosting_inside {k : Pos} {d₀ d : Dev} (h : Inside d₀ d) : Inside d₀ (Dev.returnPosting k d) := by
  unfold Dev.returnPosting
  try dsimp only
  repeat' first
    | with_reducible assumption
    | with_reducible apply waitPosting_inside
    | with_reducible apply onPosting_inside
    | split
    | with_reducible refine Inside.made ?_ rfl rfl rfl rfl rfl rfl rfl rfl rfl rfl rfl rfl

theorem stopPosting_inside {k : Pos} {d₀ d : Dev} (h : Inside d₀ d) : Inside d₀ (Dev.stopPosting k d) := by
  unfold Dev.stopPosting
  try dsimp only
  repeat' first
    | with_reducible assumption
    | with_reducible apply onPosting_inside
    | with_reducible apply emptyReady_inside
    | split
    | with_reducible refine Inside.made ?_ rfl rfl rfl rfl rfl rfl rfl rfl rfl rfl rfl rfl

theorem releasePosting_inside {k : Pos} {d₀ d : Dev} (h : Inside d₀ d) : Inside d₀ (Dev.releasePosting k d) := by
  unfold Dev.releasePosting
  try dsimp only
  repeat' first
    | with_reducible assumption
    | with_reducible apply endPosting_inside
    | split

theorem revalidatePosting_inside {k : Pos} {d₀ d : Dev} (h : Inside d₀ d) : Inside d₀ (Dev.revalidatePosting k d) := by
  unfold Dev.revalidatePosting
  try dsimp only
  repeat' first
    | with_reducible assumption
    | with_reducible apply endPosting_inside
    | with_reducible apply restartBatch_inside
    | split

theorem targetFailed_inside {k : Pos} {d₀ d : Dev} (h : Inside d₀ d) : Inside d₀ (Dev.targetFailed k d) := by
  unfold Dev.targetFailed
  try dsimp only
  repeat' first
    | with_reducible assumption
    | with_reducible apply endPosting_inside
    | split

end Sys2Proof.Safety
end

