-- ==== Sys2Proof/Laws/InsideTable.lean ====
section
/-! SUPPORT. Host memory, stamp, current schedule, part state and registers are left by the node table, diagnosis, discovery and the session: one lemma per operation. -/
namespace Sys2Proof.Safety

open Sys2Proof.Machine

theorem setDiscovery_inside {s : Discovery} {d₀ d : Dev} (h : Inside d₀ d) : Inside d₀ (Dev.setDiscovery s d) :=
  h.same rfl rfl rfl rfl rfl rfl rfl rfl rfl rfl rfl rfl

theorem enterWaiting_inside {d₀ d : Dev} (h : Inside d₀ d) : Inside d₀ (Dev.enterWaiting d) :=
  h.same rfl rfl rfl rfl rfl rfl rfl rfl rfl rfl rfl rfl

theorem abandonLocate_inside {d₀ d : Dev} (h : Inside d₀ d) : Inside d₀ (Dev.abandonLocate d) := by
  unfold Dev.abandonLocate
  try dsimp only
  repeat' first
    | with_reducible assumption
    | split
    | with_reducible refine Inside.made ?_ rfl rfl rfl rfl rfl rfl rfl rfl rfl rfl rfl rfl

theorem overtakeLocate_inside {d₀ d : Dev} (h : Inside d₀ d) : Inside d₀ (Dev.overtakeLocate d) := by
  unfold Dev.overtakeLocate
  try dsimp only
  repeat' first
    | with_reducible assumption
    | with_reducible apply abandonLocate_inside
    | with_reducible apply enterWaiting_inside
    | split

theorem stopDiscovery_inside {d₀ d : Dev} (h : Inside d₀ d) : Inside d₀ (Dev.stopDiscovery d) := by
  unfold Dev.stopDiscovery
  try dsimp only
  repeat' first
    | with_reducible assumption
    | with_reducible apply abandonLocate_inside
    | with_reducible refine Inside.made ?_ rfl rfl rfl rfl rfl rfl rfl rfl rfl rfl rfl rfl

theorem enterComplete_inside {recheck : Bool} {d₀ d : Dev} (h : Inside d₀ d) : Inside d₀ (Dev.enterComplete recheck d) :=
  h.same rfl rfl rfl rfl rfl rfl rfl rfl rfl rfl rfl rfl

theorem enterFaulted_inside {d₀ d : Dev} (h : Inside d₀ d) : Inside d₀ (Dev.enterFaulted d) := by
  unfold Dev.enterFaulted
  try dsimp only
  repeat' first
    | with_reducible assumption
    | split
    | with_reducible refine Inside.made ?_ rfl rfl rfl rfl rfl rfl rfl rfl rfl rfl rfl rfl

theorem setSegState_inside {k : Pos} {s : SegState} {d₀ d : Dev} (h : Inside d₀ d) : Inside d₀ (Dev.setSegState k s d) := by
  unfold Dev.setSegState
  try dsimp only
  repeat' first
    | with_reducible assumption
    | with_reducible apply onEntry_inside
    | with_reducible refine Inside.made ?_ rfl rfl rfl rfl rfl rfl rfl rfl rfl rfl rfl rfl

theorem sendSegment_inside {k : Pos} {s : SegSetting} {use : SegUse} {d₀ d : Dev} (h : Inside d₀ d) : Inside d₀ (Dev.sendSegment k s use d) := by
  unfold Dev.sendSegment
  try dsimp only
  repeat' first
    | with_reducible assumption
    | with_reducible apply send_inside

theorem queueProbe1_inside {d₀ d : Dev} (h : Inside d₀ d) : Inside d₀ (Dev.queueProbe1 d) := by
  unfold Dev.queueProbe1
  try dsimp only
  repeat' first
    | with_reducible assumption
    | with_reducible apply send_inside
    | with_reducible apply onSc_inside
    | with_reducible refine Inside.made ?_ rfl rfl rfl rfl rfl rfl rfl rfl rfl rfl rfl rfl

theorem freshDock_inside {d₀ d : Dev} (h : Inside d₀ d) : Inside d₀ (Dev.freshDock d) := by
  unfold Dev.freshDock
  try dsimp only
  repeat' first
    | with_reducible assumption
    | with_reducible apply setDock_inside
    | with_reducible apply queueProbe1_inside
    | with_reducible refine Inside.made ?_ rfl rfl rfl rfl rfl rfl rfl rfl rfl rfl rfl rfl

theorem reportEnd_inside {d₀ d : Dev} (h : Inside d₀ d) : Inside d₀ (Dev.reportEnd d) := by
  unfold Dev.reportEnd
  try dsimp only
  repeat' first
    | with_reducible assumption
    | split
    | with_reducible refine Inside.made ?_ rfl rfl rfl rfl rfl rfl rfl rfl rfl rfl rfl rfl

theorem completeUndock_inside {u : Undock} {d₀ d : Dev} (h : Inside d₀ d) : Inside d₀ (Dev.completeUndock u d) := by
  unfold Dev.completeUndock
  try dsimp only
  repeat' first
    | with_reducible assumption
    | with_reducible apply stageMarker_inside
    | with_reducible apply undock_inside
    | with_reducible apply reportEnd_inside
    | with_reducible apply onSc_inside
    | with_reducible apply freshDock_inside
    | with_reducible apply setDock_inside
    | split
    | with_reducible refine Inside.made ?_ rfl rfl rfl rfl rfl rfl rfl rfl rfl rfl rfl rfl

theorem vacate_inside {k : Pos} {d₀ d : Dev} (h : Inside d₀ d) : Inside d₀ (Dev.vacate k d) := by
  unfold Dev.vacate
  try dsimp only
  repeat' first
    | with_reducible assumption
    | with_reducible apply closeInput_inside
    | with_reducible apply stageMarker_inside
    | with_reducible apply releasePosting_inside
    | with_reducible apply releaseSettings_inside
    | with_reducible apply forgetBlock_inside
    | with_reducible apply contractNone_inside
    | with_reducible apply onPcu_inside
    | split
    | with_reducible refine Inside.made ?_ rfl rfl rfl rfl rfl rfl rfl rfl rfl rfl rfl rfl

theorem enterProbed_inside {k : Pos} {id : Identity} {d₀ d : Dev} (h : Inside d₀ d) : Inside d₀ (Dev.enterProbed k id d) := by
  unfold Dev.enterProbed
  try dsimp only
  repeat' first
    | with_reducible assumption
    | with_reducible apply onEntry_inside
    | with_reducible apply schedule_inside
    | with_reducible refine Inside.made ?_ rfl rfl rfl rfl rfl rfl rfl rfl rfl rfl rfl rfl

theorem broughtIn_inside {k : Pos} {d₀ d : Dev} (h : Inside d₀ d) : Inside d₀ (Dev.broughtIn k d) := by
  unfold Dev.broughtIn
  try dsimp only
  repeat' first
    | with_reducible assumption
    | with_reducible apply sendSegment_inside
    | with_reducible apply onSeg_inside
    | with_reducible apply enterWaiting_inside
    | with_reducible apply onCm_inside
    | split
    | with_reducible refine Inside.made ?_ rfl rfl rfl rfl rfl rfl rfl rfl rfl rfl rfl rfl

theorem suspend_inside {k : Pos} {d₀ d : Dev} (h : Inside d₀ d) : Inside d₀ (Dev.suspend k d) := by
  unfold Dev.suspend
  try dsimp only
  repeat' first
    | with_reducible assumption
    | with_reducible apply suspendPush_inside
    | with_reducible apply waitPosting_inside
    | with_reducible apply leaveBlock_inside
    | with_reducible apply suspendLines_inside
    | split

theorem sendAway_inside {s : EntryState} {lostAt : Option W32} {k : Pos} {d₀ d : Dev} (h : Inside d₀ d) : Inside d₀ (Dev.sendAway s lostAt k d) := by
  unfold Dev.sendAway
  try dsimp only
  repeat' first
    | with_reducible assumption
    | with_reducible apply onEntry_inside
    | with_reducible apply suspend_inside
    | split

theorem holdNew_inside {k : Pos} {d₀ d : Dev} (h : Inside d₀ d) : Inside d₀ (Dev.holdNew k d) := by
  unfold Dev.holdNew
  try dsimp only
  repeat' first
    | with_reducible assumption
    | with_reducible apply sendAway_inside
    | with_reducible apply unschedule_inside
    | split

theorem takeHeld_inside {k : Pos} {id : Identity} {d₀ d : Dev} (h : Inside d₀ d) : Inside d₀ (Dev.takeHeld k id d) := by
  unfold Dev.takeHeld
  try dsimp only
  repeat' first
    | with_reducible assumption
    | with_reducible apply enterProbed_inside
    | with_reducible apply broughtIn_inside
    | with_reducible apply holdNew_inside
    | split

theorem afterRelease_inside {first : Pos} {a : AfterRelease} {d₀ d : Dev} (h : Inside d₀ d) : Inside d₀ (Dev.afterRelease first a d) := by
  unfold Dev.afterRelease
  try dsimp only
  repeat' first
    | with_reducible assumption
    | with_reducible apply takeHeld_inside
    | with_reducible apply enterWaiting_inside
    | with_reducible apply onCm_inside
    | with_reducible apply enterFaulted_inside
    | split
    | with_reducible refine Inside.made ?_ rfl rfl rfl rfl rfl rfl rfl rfl rfl rfl rfl rfl

theorem afterReleaseInSequence_inside {a : AfterRelease} {d₀ d : Dev} (h : Inside d₀ d) : Inside d₀ (Dev.afterReleaseInSequence a d) := by
  unfold Dev.afterReleaseInSequence
  try dsimp only
  repeat' first
    | with_reducible assumption
    | with_reducible apply takeHeld_inside
    | split

theorem completeRelease_inside {d₀ d : Dev} (h : Inside d₀ d) : Inside d₀ (Dev.completeRelease d) := by
  unfold Dev.completeRelease
  try dsimp only
  repeat' first
    | with_reducible assumption
    | with_reducible apply onEntry_inside
    | with_reducible apply vacate_inside
    | with_reducible apply releaseLines_inside
    | with_reducible apply undock_inside
    | with_reducible apply completeUndock_inside
    | with_reducible apply stopDiscovery_inside
    | with_reducible apply onSc_inside
    | with_reducible apply afterRelease_inside
    | with_reducible apply afterReleaseInSequence_inside
    | with_reducible refine Inside.foldl ?_ (fun _ _ _ => ?_)
    | split
    | with_reducible refine Inside.made ?_ rfl rfl rfl rfl rfl rfl rfl rfl rfl rfl rfl rfl

theorem coverEntry_inside {k : Pos} {d₀ d : Dev} (h : Inside d₀ d) : Inside d₀ (Dev.coverEntry k d) := by
  unfold Dev.coverEntry
  try dsimp only
  repeat' first
    | with_reducible assumption
    | with_reducible apply onEntry_inside
    | with_reducible apply unschedule_inside
    | with_reducible apply flush_inside
    | with_reducible apply stopPosting_inside
    | with_reducible refine Inside.made ?_ rfl rfl rfl rfl rfl rfl rfl rfl rfl rfl rfl rfl

theorem cover_inside {joining : List Pos} {first : Pos} {messages : List Pos} {after : AfterRelease} {d₀ d : Dev} (h : Inside d₀ d) : Inside d₀ (Dev.cover joining first messages after d) := by
  unfold Dev.cover
  try dsimp only
  repeat' first
    | with_reducible assumption
    | with_reducible apply coverEntry_inside
    | with_reducible apply send_inside
    | with_reducible apply enterWaiting_inside
    | with_reducible apply completeRelease_inside
    | with_reducible refine Inside.foldl ?_ (fun _ _ _ => ?_)
    | split
    | with_reducible refine Inside.made ?_ rfl rfl rfl rfl rfl rfl rfl rfl rfl rfl rfl rfl

theorem requestRelease_inside {first : Pos} {messages : List Pos} {after : AfterRelease} {d₀ d : Dev} (h : Inside d₀ d) : Inside d₀ (Dev.requestRelease first messages after d) := by
  unfold Dev.requestRelease
  try dsimp only
  repeat' first
    | with_reducible assumption
    | with_reducible apply cover_inside
    | split

theorem undock_inside {reason : Option UndockReason} {following : Following} {messages : List Pos} {d₀ d : Dev} (h : Inside d₀ d) : Inside d₀ (Dev.undock reason following messages d) := by
  unfold Dev.undock
  try dsimp only
  repeat' first
    | with_reducible assumption
    | with_reducible apply withdrawUnsent_inside
    | with_reducible apply stopDiscovery_inside
    | with_reducible apply onSc_inside
    | with_reducible apply cover_inside
    | with_reducible apply requestRelease_inside
    | split
    | with_reducible refine Inside.made ?_ rfl rfl rfl rfl rfl rfl rfl rfl rfl rfl rfl rfl

theorem announce_inside {k : Pos} {d₀ d : Dev} (h : Inside d₀ d) : Inside d₀ (Dev.announce k d) := by
  unfold Dev.announce
  try dsimp only
  repeat' first
    | with_reducible assumption
    | with_reducible apply stageMarker_inside
    | with_reducible apply onEntry_inside
    | split
    | with_reducible refine Inside.made ?_ rfl rfl rfl rfl rfl rfl rfl rfl rfl rfl rfl rfl

theorem enterActive_inside {k : Pos} {d₀ d : Dev} (h : Inside d₀ d) : Inside d₀ (Dev.enterActive k d) := by
  unfold Dev.enterActive
  try dsimp only
  repeat' first
    | with_reducible assumption
    | with_reducible apply onEntry_inside
    | with_reducible apply undock_inside
    | with_reducible apply setDock_inside
    | with_reducible apply stageMarker_inside
    | with_reducible apply enterWaiting_inside
    | with_reducible apply onSc_inside
    | with_reducible apply announce_inside
    | with_reducible apply revalidatePosting_inside
    | split
    | with_reducible refine Inside.made ?_ rfl rfl rfl rfl rfl rfl rfl rfl rfl rfl rfl rfl

theorem pendingWhereFailed_inside {k : Pos} {d₀ d : Dev} (h : Inside d₀ d) : Inside d₀ (Dev.pendingWhereFailed k d) := by
  unfold Dev.pendingWhereFailed
  try dsimp only
  split
  · exact h
  · exact wantApplied_inside (onIrPos_inside h)

theorem enterFailed_inside {k : Pos} {d₀ d : Dev} (h : Inside d₀ d) : Inside d₀ (Dev.enterFailed k d) := by
  unfold Dev.enterFailed
  try dsimp only
  repeat' first
    | with_reducible assumption
    | with_reducible apply onEntry_inside
    | with_reducible apply closeInput_inside
    | with_reducible apply announce_inside
    | with_reducible apply onIrPos_inside
    | with_reducible apply pendingWhereFailed_inside
    | with_reducible apply targetFailed_inside
    | with_reducible apply contractNone_inside
    | with_reducible apply undock_inside
    | split
    | with_reducible refine Inside.made ?_ rfl rfl rfl rfl rfl rfl rfl rfl rfl rfl rfl rfl

theorem failEntry_inside {k : Pos} {code : FaultCode} {d₀ d : Dev} (h : Inside d₀ d) : Inside d₀ (Dev.failEntry k code d) := by
  unfold Dev.failEntry
  try dsimp only
  repeat' first
    | with_reducible assumption
    | with_reducible apply logFault_inside
    | with_reducible apply enterFailed_inside

theorem configuringCheck_inside {k : Pos} {d₀ d : Dev} (h : Inside d₀ d) : Inside d₀ (Dev.configuringCheck k d) := by
  unfold Dev.configuringCheck
  try dsimp only
  repeat' first
    | with_reducible assumption
    | with_reducible apply blockDone_inside
    | with_reducible apply enterActive_inside
    | split

theorem sendSessionItems_inside {k : Pos} {d₀ d : Dev} (h : Inside d₀ d) : Inside d₀ (Dev.sendSessionItems k d) := by
  unfold Dev.sendSessionItems
  try dsimp only
  repeat' first
    | with_reducible assumption
    | with_reducible apply send_inside

theorem enterConfiguring_inside {k : Pos} {d₀ d : Dev} (h : Inside d₀ d) : Inside d₀ (Dev.enterConfiguring k d) := by
  unfold Dev.enterConfiguring
  try dsimp only
  repeat' first
    | with_reducible assumption
    | with_reducible apply onEntry_inside
    | with_reducible apply resetSettings_inside
    | with_reducible apply forgetBlock_inside
    | with_reducible apply forgetLines_inside
    | with_reducible apply sendSessionItems_inside
    | split
    | with_reducible refine Inside.made ?_ rfl rfl rfl rfl rfl rfl rfl rfl rfl rfl rfl rfl

theorem startWalk_inside {k : Pos} {d₀ d : Dev} (h : Inside d₀ d) : Inside d₀ (Dev.startWalk k d) := by
  unfold Dev.startWalk
  try dsimp only
  repeat' first
    | with_reducible assumption
    | with_reducible apply onEntry_inside
    | with_reducible apply send_inside
    | with_reducible refine Inside.made ?_ rfl rfl rfl rfl rfl rfl rfl rfl rfl rfl rfl rfl

theorem rejoin_inside {k : Pos} {d₀ d : Dev} (h : Inside d₀ d) : Inside d₀ (Dev.rejoin k d) := by
  unfold Dev.rejoin
  exact Inside.made (schedule_inside h) rfl rfl rfl rfl rfl rfl rfl rfl rfl rfl rfl rfl

theorem resumeEntry_inside {k : Pos} {d₀ d : Dev} (h : Inside d₀ d) : Inside d₀ (Dev.resumeEntry k d) := by
  unfold Dev.resumeEntry
  try dsimp only
  repeat' first
    | with_reducible assumption
    | with_reducible apply onEntry_inside
    | with_reducible apply rejoin_inside
    | with_reducible apply thaw_inside
    | with_reducible apply startWalk_inside
    | with_reducible apply enterConfiguring_inside
    | with_reducible apply startPush_inside
    | with_reducible apply resumePosting_inside
    | with_reducible apply onPcu_inside
    | split
    | with_reducible refine Inside.made ?_ rfl rfl rfl rfl rfl rfl rfl rfl rfl rfl rfl rfl

theorem passFrom_inside {k : Option Pos} {d₀ d : Dev} (h : Inside d₀ d) : Inside d₀ (Dev.passFrom k d) := by
  unfold Dev.passFrom
  try dsimp only
  repeat' first
    | with_reducible assumption
    | with_reducible apply onSc_inside
    | with_reducible apply send_inside
    | split
    | with_reducible refine Inside.made ?_ rfl rfl rfl rfl rfl rfl rfl rfl rfl rfl rfl rfl

theorem setStanding_inside {k : Pos} {s : Option Standing} {d₀ d : Dev} (h : Inside d₀ d) : Inside d₀ (Dev.setStanding k s d) := by
  unfold Dev.setStanding
  try dsimp only
  repeat' first
    | with_reducible assumption
    | with_reducible apply onSeg_inside
    | with_reducible refine Inside.made ?_ rfl rfl rfl rfl rfl rfl rfl rfl rfl rfl rfl rfl

theorem faultSegment_inside {k : Pos} {d₀ d : Dev} (h : Inside d₀ d) : Inside d₀ (Dev.faultSegment k d) := by
  unfold Dev.faultSegment
  try dsimp only
  repeat' first
    | with_reducible assumption
    | with_reducible apply sendSegment_inside
    | with_reducible apply setSegState_inside
    | split

theorem faultFrontier_inside {k : Pos} {d₀ d : Dev} (h : Inside d₀ d) : Inside d₀ (Dev.faultFrontier k d) := by
  unfold Dev.faultFrontier
  try dsimp only
  repeat' first
    | with_reducible assumption
    | with_reducible apply requestRelease_inside
    | with_reducible apply enterFaulted_inside
    | split

theorem partialFault_inside {k : Pos} {code : FaultCode} {sense : Option SenseCode} {d₀ d : Dev} (h : Inside d₀ d) : Inside d₀ (Dev.partialFault k code sense d) := by
  unfold Dev.partialFault
  try dsimp only
  repeat' first
    | with_reducible assumption
    | with_reducible apply logFault_inside
    | with_reducible apply setStanding_inside
    | with_reducible apply faultSegment_inside
    | with_reducible apply faultFrontier_inside
    | split
    | with_reducible refine Inside.made ?_ rfl rfl rfl rfl rfl rfl rfl rfl rfl rfl rfl rfl

theorem raiseUnlocated_inside {k : Pos} {code : SenseCode} {record : Bool} {d₀ d : Dev} (h : Inside d₀ d) : Inside d₀ (Dev.raiseUnlocated k code record d) := by
  unfold Dev.raiseUnlocated
  try dsimp only
  repeat' first
    | with_reducible assumption
    | with_reducible apply logFault_inside
    | with_reducible apply setStanding_inside
    | split
    | with_reducible refine Inside.made ?_ rfl rfl rfl rfl rfl rfl rfl rfl rfl rfl rfl rfl

theorem withdrawSegments_inside {d₀ d : Dev} (h : Inside d₀ d) : Inside d₀ (Dev.withdrawSegments d) := by
  unfold Dev.withdrawSegments
  try dsimp only
  repeat' first
    | with_reducible assumption
    | with_reducible apply withdrawUnsent_inside
    | split

theorem keepDiscovery_inside {d₀ d : Dev} (h : Inside d₀ d) : Inside d₀ (Dev.keepDiscovery d) :=
  h.same rfl rfl rfl rfl rfl rfl rfl rfl rfl rfl rfl rfl

theorem shutChain_inside {k : Pos} {code : SenseCode} {d₀ d : Dev} (h : Inside d₀ d) : Inside d₀ (Dev.shutChain k code d) := by
  unfold Dev.shutChain
  try dsimp only
  repeat' first
    | with_reducible assumption
    | with_reducible apply logFault_inside
    | with_reducible apply setStanding_inside
    | with_reducible apply abandonLocate_inside
    | with_reducible apply onCm_inside
    | with_reducible apply withdrawSegments_inside
    | with_reducible apply sendSegment_inside
    | with_reducible apply setSegState_inside
    | with_reducible apply keepDiscovery_inside
    | with_reducible apply requestRelease_inside
    | split
    | with_reducible refine Inside.made ?_ rfl rfl rfl rfl rfl rfl rfl rfl rfl rfl rfl rfl

theorem clearStanding_inside {d₀ d : Dev} (h : Inside d₀ d) : Inside d₀ (Dev.clearStanding d) :=
  h.same rfl rfl rfl rfl rfl rfl rfl rfl rfl rfl rfl rfl

theorem startLocate_inside {cause : LocateCause} {sought : Option SenseCode} {d₀ d : Dev} (h : Inside d₀ d) : Inside d₀ (Dev.startLocate cause sought d) := by
  unfold Dev.startLocate
  try dsimp only
  repeat' first
    | with_reducible assumption
    | with_reducible apply clearStanding_inside
    | with_reducible apply withdrawSegments_inside
    | with_reducible apply sendSegment_inside
    | with_reducible apply keepDiscovery_inside
    | with_reducible apply requestRelease_inside
    | with_reducible refine Inside.made ?_ rfl rfl rfl rfl rfl rfl rfl rfl rfl rfl rfl rfl

theorem restartLocate_inside {d₀ d : Dev} (h : Inside d₀ d) : Inside d₀ (Dev.restartLocate d) := by
  unfold Dev.restartLocate
  try dsimp only
  repeat' first
    | with_reducible assumption
    | with_reducible apply startLocate_inside

theorem endLocate_inside {r : LocateResult} {d₀ d : Dev} (h : Inside d₀ d) : Inside d₀ (Dev.endLocate r d) :=
  h.same rfl rfl rfl rfl rfl rfl rfl rfl rfl rfl rfl rfl

theorem notReproduced_inside {recheck : Bool} {d₀ d : Dev} (h : Inside d₀ d) : Inside d₀ (Dev.notReproduced recheck d) := by
  unfold Dev.notReproduced
  try dsimp only
  repeat' first
    | with_reducible assumption
    | with_reducible apply logFault_inside
    | with_reducible apply endLocate_inside
    | with_reducible apply enterComplete_inside
    | split

theorem examine_inside {k : Pos} {d₀ d : Dev} (h : Inside d₀ d) : Inside d₀ (Dev.examine k d) := by
  unfold Dev.examine
  try dsimp only
  repeat' first
    | with_reducible assumption
    | with_reducible apply notReproduced_inside
    | with_reducible apply sendSegment_inside
    | split
    | with_reducible refine Inside.made ?_ rfl rfl rfl rfl rfl rfl rfl rfl rfl rfl rfl rfl

theorem concealedAtStep_inside {k : Pos} {code : SenseCode} {d₀ d : Dev} (h : Inside d₀ d) : Inside d₀ (Dev.concealedAtStep k code d) := by
  unfold Dev.concealedAtStep
  try dsimp only
  repeat' first
    | with_reducible assumption
    | with_reducible apply startLocate_inside
    | with_reducible apply raiseUnlocated_inside
    | with_reducible apply faultSegment_inside
    | with_reducible apply faultFrontier_inside
    | split

theorem locateFault_inside {k : Pos} {code : SenseCode} {d₀ d : Dev} (h : Inside d₀ d) : Inside d₀ (Dev.locateFault k code d) := by
  unfold Dev.locateFault
  try dsimp only
  repeat' first
    | with_reducible assumption
    | with_reducible apply logFault_inside
    | with_reducible apply setStanding_inside
    | with_reducible apply faultSegment_inside
    | with_reducible apply endLocate_inside
    | with_reducible apply enterFaulted_inside
    | with_reducible apply partialFault_inside
    | with_reducible apply shutChain_inside
    | with_reducible apply endOfChain_inside
    | split
    | with_reducible refine Inside.made ?_ rfl rfl rfl rfl rfl rfl rfl rfl rfl rfl rfl rfl

theorem faultAfterRelease_inside {k : Pos} {d₀ d : Dev} (h : Inside d₀ d) : Inside d₀ (Dev.faultAfterRelease k d) := by
  unfold Dev.faultAfterRelease
  try dsimp only
  repeat' first
    | with_reducible assumption
    | with_reducible apply onCm_inside

theorem watchPartial_inside {k : Pos} {code : SenseCode} {d₀ d : Dev} (h : Inside d₀ d) : Inside d₀ (Dev.watchPartial k code d) := by
  unfold Dev.watchPartial
  try dsimp only
  repeat' first
    | with_reducible assumption
    | with_reducible apply overtakeLocate_inside
    | with_reducible apply faultAfterRelease_inside
    | with_reducible apply logFault_inside
    | with_reducible apply setStanding_inside
    | with_reducible apply faultSegment_inside
    | with_reducible apply onCm_inside
    | with_reducible apply enterFaulted_inside
    | with_reducible apply requestRelease_inside
    | split
    | with_reducible refine Inside.made ?_ rfl rfl rfl rfl rfl rfl rfl rfl rfl rfl rfl rfl

theorem watchConcealed_inside {k : Pos} {code : SenseCode} {d₀ d : Dev} (h : Inside d₀ d) : Inside d₀ (Dev.watchConcealed k code d) := by
  unfold Dev.watchConcealed
  try dsimp only
  repeat' first
    | with_reducible assumption
    | with_reducible apply raiseUnlocated_inside
    | split

theorem watchConfirmed_inside {k : Pos} {code : SenseCode} {d₀ d : Dev} (h : Inside d₀ d) : Inside d₀ (Dev.watchConfirmed k code d) := by
  unfold Dev.watchConfirmed
  try dsimp only
  repeat' first
    | with_reducible assumption
    | with_reducible apply watchConcealed_inside
    | with_reducible apply watchPartial_inside
    | with_reducible apply startLocate_inside
    | split

theorem watchCode_inside {k : Pos} {code : SenseCode} {d₀ d : Dev} (h : Inside d₀ d) : Inside d₀ (Dev.watchCode k code d) := by
  unfold Dev.watchCode
  try dsimp only
  repeat' first
    | with_reducible assumption
    | with_reducible apply shutChain_inside
    | with_reducible apply onSeg_inside
    | with_reducible apply endOfChain_inside
    | with_reducible apply watchConfirmed_inside
    | split
    | with_reducible refine Inside.made ?_ rfl rfl rfl rfl rfl rfl rfl rfl rfl rfl rfl rfl

theorem stepCode_inside {k : Pos} {code : SenseCode} {d₀ d : Dev} (h : Inside d₀ d) : Inside d₀ (Dev.stepCode k code d) := by
  unfold Dev.stepCode
  try dsimp only
  repeat' first
    | with_reducible assumption
    | with_reducible apply shutChain_inside
    | split
    | with_reducible refine Inside.made ?_ rfl rfl rfl rfl rfl rfl rfl rfl rfl rfl rfl rfl

theorem takeSense_inside {k : Pos} {byte : Byte} {d₀ d : Dev} (h : Inside d₀ d) : Inside d₀ (Dev.takeSense k byte d) := by
  unfold Dev.takeSense
  try dsimp only
  repeat' first
    | with_reducible assumption
    | with_reducible apply onSeg_inside
    | with_reducible apply stepCode_inside
    | with_reducible apply watchCode_inside
    | with_reducible apply shutChain_inside
    | split
    | with_reducible refine Inside.made ?_ rfl rfl rfl rfl rfl rfl rfl rfl rfl rfl rfl rfl

theorem dropReturned_inside {k : Pos} {d₀ d : Dev} (h : Inside d₀ d) : Inside d₀ (Dev.dropReturned k d) := by
  unfold Dev.dropReturned
  repeat' first
    | with_reducible assumption
    | with_reducible apply requestRelease_inside
    | split

theorem chainEnds_inside {d₀ d : Dev} (h : Inside d₀ d) : Inside d₀ (Dev.chainEnds d) := by
  unfold Dev.chainEnds
  repeat' first
    | with_reducible assumption
    | with_reducible apply enterComplete_inside
    | with_reducible apply dropReturned_inside
    | split

theorem takeStep_inside {isRetry : Bool} {d₀ d : Dev} (h : Inside d₀ d) : Inside d₀ (Dev.takeStep isRetry d) := by
  unfold Dev.takeStep
  try dsimp only
  repeat' first
    | with_reducible assumption
    | with_reducible apply chainEnds_inside
    | with_reducible apply sendSegment_inside
    | split
    | with_reducible refine Inside.made ?_ rfl rfl rfl rfl rfl rfl rfl rfl rfl rfl rfl rfl

theorem locateNext_inside {d₀ d : Dev} (h : Inside d₀ d) : Inside d₀ (Dev.locateNext d) := by
  unfold Dev.locateNext
  try dsimp only
  repeat' first
    | with_reducible assumption
    | with_reducible apply notReproduced_inside
    | with_reducible apply examine_inside
    | split

theorem discoveryStep_inside {d₀ d : Dev} (h : Inside d₀ d) : Inside d₀ (Dev.discoveryStep d) := by
  unfold Dev.discoveryStep
  try dsimp only
  repeat' first
    | with_reducible assumption
    | with_reducible apply takeStep_inside
    | with_reducible apply locateNext_inside
    | with_reducible apply send_inside
    | split

theorem frontierExpiry_inside {d₀ d : Dev} (h : Inside d₀ d) : Inside d₀ (Dev.frontierExpiry d) := by
  unfold Dev.frontierExpiry
  try dsimp only
  repeat' first
    | with_reducible assumption
    | with_reducible apply takeStep_inside
    | with_reducible apply onCm_inside
    | split
    | with_reducible refine Inside.made ?_ rfl rfl rfl rfl rfl rfl rfl rfl rfl rfl rfl rfl

theorem stepFault_inside {k : Pos} {code : SenseCode} {d₀ d : Dev} (h : Inside d₀ d) : Inside d₀ (Dev.stepFault k code d) := by
  unfold Dev.stepFault
  try dsimp only
  repeat' first
    | with_reducible assumption
    | with_reducible apply concealedAtStep_inside
    | with_reducible apply partialFault_inside
    | split

theorem beginProbing_inside {k : Pos} {d₀ d : Dev} (h : Inside d₀ d) : Inside d₀ (Dev.beginProbing k d) := by
  unfold Dev.beginProbing
  try dsimp only
  repeat' first
    | with_reducible assumption
    | with_reducible apply send_inside
    | split
    | with_reducible refine Inside.made ?_ rfl rfl rfl rfl rfl rfl rfl rfl rfl rfl rfl rfl

theorem endOfChain_inside {k : Pos} {d₀ d : Dev} (h : Inside d₀ d) : Inside d₀ (Dev.endOfChain k d) := by
  unfold Dev.endOfChain
  try dsimp only
  repeat' first
    | with_reducible assumption
    | with_reducible apply dropReturned_inside
    | with_reducible apply onCm_inside
    | with_reducible apply sendSegment_inside
    | split
    | with_reducible refine Inside.made ?_ rfl rfl rfl rfl rfl rfl rfl rfl rfl rfl rfl rfl

theorem observationEnd_inside {d₀ d : Dev} (h : Inside d₀ d) : Inside d₀ (Dev.observationEnd d) := by
  unfold Dev.observationEnd
  try dsimp only
  repeat' first
    | with_reducible assumption
    | with_reducible apply undock_inside
    | with_reducible apply stepFault_inside
    | with_reducible apply beginProbing_inside
    | with_reducible apply endOfChain_inside
    | split

theorem locateObservationEnd_inside {d₀ d : Dev} (h : Inside d₀ d) : Inside d₀ (Dev.locateObservationEnd d) := by
  unfold Dev.locateObservationEnd
  try dsimp only
  repeat' first
    | with_reducible assumption
    | with_reducible apply undock_inside
    | with_reducible apply locateFault_inside
    | with_reducible apply send_inside
    | with_reducible apply sendSegment_inside
    | with_reducible apply notReproduced_inside
    | split
    | with_reducible refine Inside.made ?_ rfl rfl rfl rfl rfl rfl rfl rfl rfl rfl rfl rfl

theorem settlingEnd_inside {d₀ d : Dev} (h : Inside d₀ d) : Inside d₀ (Dev.settlingEnd d) := by
  unfold Dev.settlingEnd
  try dsimp only
  repeat' first
    | with_reducible assumption
    | with_reducible apply examine_inside
    | split

theorem diagResult_inside {j : Pos} {code : ResultCode} {d₀ d : Dev} (h : Inside d₀ d) : Inside d₀ (Dev.diagResult j code d) := by
  unfold Dev.diagResult
  try dsimp only
  repeat' first
    | with_reducible assumption
    | with_reducible apply setSegState_inside
    | with_reducible apply onCm_inside
    | with_reducible apply sendSegment_inside
    | with_reducible apply chainEnds_inside
    | split
    | with_reducible refine Inside.made ?_ rfl rfl rfl rfl rfl rfl rfl rfl rfl rfl rfl rfl

theorem endOffResult_inside {j : Pos} {code : ResultCode} {d₀ d : Dev} (h : Inside d₀ d) : Inside d₀ (Dev.endOffResult j code d) := by
  unfold Dev.endOffResult
  try dsimp only
  repeat' first
    | with_reducible assumption
    | with_reducible apply setSegState_inside
    | with_reducible apply setStanding_inside
    | with_reducible apply enterComplete_inside
    | with_reducible apply onCm_inside
    | with_reducible apply sendSegment_inside
    | split
    | with_reducible refine Inside.made ?_ rfl rfl rfl rfl rfl rfl rfl rfl rfl rfl rfl rfl

theorem bringOnResult_inside {j : Pos} {code : ResultCode} {d₀ d : Dev} (h : Inside d₀ d) : Inside d₀ (Dev.bringOnResult j code d) := by
  unfold Dev.bringOnResult
  try dsimp only
  repeat' first
    | with_reducible assumption
    | with_reducible apply onCm_inside
    | with_reducible apply undock_inside
    | with_reducible apply sendSegment_inside
    | with_reducible apply setSegState_inside
    | split

theorem offAgain_inside {j : Pos} {use : SegUse} {wanted : Bool} {code : ResultCode} {d₀ d : Dev} (h : Inside d₀ d) : Inside d₀ (Dev.offAgain j use wanted code d) := by
  unfold Dev.offAgain
  try dsimp only
  repeat' first
    | with_reducible assumption
    | with_reducible apply sendSegment_inside
    | split

theorem frozenResult_inside {j : Pos} {s : SegState} {code : ResultCode} {d₀ d : Dev} (h : Inside d₀ d) : Inside d₀ (Dev.frozenResult j s code d) := by
  unfold Dev.frozenResult
  split
  · exact setSegState_inside h
  · exact h

theorem locateOffResult_inside {code : ResultCode} {d₀ d : Dev} (h : Inside d₀ d) : Inside d₀ (Dev.locateOffResult code d) := by
  unfold Dev.locateOffResult
  try dsimp only
  repeat' first
    | with_reducible assumption
    | with_reducible apply setSegState_inside
    | with_reducible apply frozenResult_inside
    | with_reducible apply sendSegment_inside
    | split
    | with_reducible refine Inside.made ?_ rfl rfl rfl rfl rfl rfl rfl rfl rfl rfl rfl rfl

theorem locateDiagResult_inside {j : Pos} {code : ResultCode} {d₀ d : Dev} (h : Inside d₀ d) : Inside d₀ (Dev.locateDiagResult j code d) := by
  unfold Dev.locateDiagResult
  try dsimp only
  repeat' first
    | with_reducible assumption
    | with_reducible apply setSegState_inside
    | with_reducible apply frozenResult_inside
    | with_reducible apply onCm_inside
    | with_reducible apply sendSegment_inside
    | with_reducible apply notReproduced_inside
    | split
    | with_reducible refine Inside.made ?_ rfl rfl rfl rfl rfl rfl rfl rfl rfl rfl rfl rfl

theorem segmentResult_inside {j : Pos} {use : SegUse} {code : ResultCode} {d₀ d : Dev} (h : Inside d₀ d) : Inside d₀ (Dev.segmentResult j use code d) := by
  unfold Dev.segmentResult
  try dsimp only
  repeat' first
    | with_reducible assumption
    | with_reducible apply diagResult_inside
    | with_reducible apply endOffResult_inside
    | with_reducible apply bringOnResult_inside
    | with_reducible apply offAgain_inside
    | with_reducible apply locateOffResult_inside
    | with_reducible apply locateDiagResult_inside
    | split

theorem stepBroughtIn_inside {k : Pos} {d₀ d : Dev} (h : Inside d₀ d) : Inside d₀ (Dev.stepBroughtIn k d) := by
  unfold Dev.stepBroughtIn
  try dsimp only
  repeat' first
    | with_reducible assumption
    | with_reducible apply sendSegment_inside
    | with_reducible apply setStanding_inside
    | with_reducible apply broughtIn_inside
    | split
    | with_reducible refine Inside.made ?_ rfl rfl rfl rfl rfl rfl rfl rfl rfl rfl rfl rfl

theorem rediscover_inside {k : Pos} {id : Identity} {d₀ d : Dev} (h : Inside d₀ d) : Inside d₀ (Dev.rediscover k id d) := by
  unfold Dev.rediscover
  try dsimp only
  repeat' first
    | with_reducible assumption
    | with_reducible apply onEntry_inside
    | with_reducible apply schedule_inside
    | with_reducible refine Inside.made ?_ rfl rfl rfl rfl rfl rfl rfl rfl rfl rfl rfl rfl

theorem endProbing_inside {k : Pos} {d₀ d : Dev} (h : Inside d₀ d) : Inside d₀ (Dev.endProbing k d) := by
  unfold Dev.endProbing
  try dsimp only
  repeat' first
    | with_reducible assumption
    | with_reducible apply locateFault_inside
    | with_reducible apply stepFault_inside
    | split

theorem answerTaken_inside {k : Pos} {step : Bool} {d₀ d : Dev} (h : Inside d₀ d) : Inside d₀ (Dev.answerTaken k step d) := by
  unfold Dev.answerTaken
  try dsimp only
  repeat' first
    | with_reducible assumption
    | with_reducible apply holdNew_inside
    | with_reducible apply stepBroughtIn_inside
    | split

theorem takeAnswer_inside {k : Pos} {id : Identity} {step : Bool} {d₀ d : Dev} (h : Inside d₀ d) : Inside d₀ (Dev.takeAnswer k id step d) := by
  unfold Dev.takeAnswer
  try dsimp only
  repeat' first
    | with_reducible assumption
    | with_reducible apply rediscover_inside
    | with_reducible apply answerTaken_inside
    | with_reducible apply requestRelease_inside
    | with_reducible apply enterProbed_inside
    | split

theorem probeTaken_inside {k : Pos} {id : Identity} {d₀ d : Dev} (h : Inside d₀ d) : Inside d₀ (Dev.probeTaken k id d) := by
  unfold Dev.probeTaken
  try dsimp only
  repeat' first
    | with_reducible assumption
    | with_reducible apply endProbing_inside
    | with_reducible apply takeAnswer_inside

theorem silent_inside {k : Pos} {d₀ d : Dev} (h : Inside d₀ d) : Inside d₀ (Dev.silent k d) := by
  unfold Dev.silent
  try dsimp only
  repeat' first
    | with_reducible assumption
    | with_reducible apply endLocate_inside
    | with_reducible apply partialFault_inside
    | split

theorem probeFailed_inside {k : Pos} {d₀ d : Dev} (h : Inside d₀ d) : Inside d₀ (Dev.probeFailed k d) := by
  unfold Dev.probeFailed
  try dsimp only
  repeat' first
    | with_reducible assumption
    | with_reducible apply send_inside
    | with_reducible apply silent_inside
    | split

theorem chainRetry_inside {d₀ d : Dev} (h : Inside d₀ d) : Inside d₀ (Dev.chainRetry d) := by
  unfold Dev.chainRetry
  try dsimp only
  repeat' first
    | with_reducible assumption
    | with_reducible apply requestRelease_inside
    | with_reducible apply enterWaiting_inside
    | with_reducible apply onCm_inside
    | with_reducible apply clearStanding_inside
    | with_reducible apply restartLocate_inside
    | split
    | with_reducible refine Inside.made ?_ rfl rfl rfl rfl rfl rfl rfl rfl rfl rfl rfl rfl

theorem locateRequest_inside {d₀ d : Dev} (h : Inside d₀ d) : Inside d₀ (Dev.locateRequest d) := by
  unfold Dev.locateRequest
  try dsimp only
  repeat' first
    | with_reducible assumption
    | with_reducible apply undock_inside
    | with_reducible apply startLocate_inside
    | split

theorem holdTick_inside {d₀ d : Dev} (h : Inside d₀ d) : Inside d₀ (Dev.holdTick d) := by
  unfold Dev.holdTick
  try dsimp only
  repeat' first
    | with_reducible assumption
    | with_reducible apply onSc_inside
    | with_reducible apply send_inside
    | split
    | with_reducible refine Inside.made ?_ rfl rfl rfl rfl rfl rfl rfl rfl rfl rfl rfl rfl

theorem holdDiscovery_inside {d₀ d : Dev} (h : Inside d₀ d) : Inside d₀ (Dev.holdDiscovery d) := by
  unfold Dev.holdDiscovery
  try dsimp only
  repeat' first
    | with_reducible assumption
    | with_reducible apply onCm_inside
    | split
    | with_reducible refine Inside.made ?_ rfl rfl rfl rfl rfl rfl rfl rfl rfl rfl rfl rfl

theorem beginHold_inside {d₀ d : Dev} (h : Inside d₀ d) : Inside d₀ (Dev.beginHold d) := by
  unfold Dev.beginHold
  try dsimp only
  repeat' first
    | with_reducible assumption
    | with_reducible apply setDock_inside
    | with_reducible apply sendAway_inside
    | with_reducible apply holdDiscovery_inside
    | with_reducible apply holdTick_inside
    | with_reducible refine Inside.foldl ?_ (fun _ _ _ => ?_)
    | with_reducible refine Inside.made ?_ rfl rfl rfl rfl rfl rfl rfl rfl rfl rfl rfl rfl

theorem backToDocked_inside {d₀ d : Dev} (h : Inside d₀ d) : Inside d₀ (Dev.backToDocked d) := by
  unfold Dev.backToDocked
  try dsimp only
  repeat' first
    | with_reducible assumption
    | with_reducible apply setDock_inside
    | with_reducible apply onCm_inside
    | with_reducible apply restartLocate_inside
    | split
    | with_reducible refine Inside.made ?_ rfl rfl rfl rfl rfl rfl rfl rfl rfl rfl rfl rfl

theorem sendOwedOn_inside {d₀ d : Dev} (h : Inside d₀ d) : Inside d₀ (Dev.sendOwedOn d) := by
  unfold Dev.sendOwedOn
  try dsimp only
  repeat' first
    | with_reducible assumption
    | with_reducible apply onCm_inside
    | with_reducible apply sendSegment_inside
    | with_reducible refine when_inside ?_ (fun _ => ?_)
    | with_reducible refine Inside.foldl ?_ (fun _ _ _ => ?_)
    | split

theorem cradleResumed_inside {d₀ d : Dev} (h : Inside d₀ d) : Inside d₀ (Dev.cradleResumed d) := by
  unfold Dev.cradleResumed
  try dsimp only
  repeat' first
    | with_reducible assumption
    | with_reducible apply sendOwedOn_inside
    | with_reducible apply resumeEntry_inside
    | with_reducible apply backToDocked_inside
    | with_reducible apply withdrawUnsent_inside
    | with_reducible apply passFrom_inside

theorem markReturned_inside {k : Pos} {d₀ d : Dev} (h : Inside d₀ d) : Inside d₀ (Dev.markReturned k d) := by
  unfold Dev.markReturned
  try dsimp only
  repeat' first
    | with_reducible assumption
    | with_reducible apply onEntry_inside
    | with_reducible apply closeInput_inside
    | with_reducible apply resetSettings_inside
    | with_reducible apply returnPosting_inside
    | with_reducible apply forgetLines_inside
    | with_reducible apply contractNone_inside
    | with_reducible apply leaveBlock_inside
    | split
    | with_reducible refine Inside.made ?_ rfl rfl rfl rfl rfl rfl rfl rfl rfl rfl rfl rfl

theorem cradleReturned_inside {id : Identity} {d₀ d : Dev} (h : Inside d₀ d) : Inside d₀ (Dev.cradleReturned id d) := by
  unfold Dev.cradleReturned
  try dsimp only
  repeat' first
    | with_reducible assumption
    | with_reducible apply markReturned_inside
    | with_reducible apply onEntry_inside
    | with_reducible apply schedule_inside
    | with_reducible apply withdrawUnsent_inside
    | with_reducible apply enterWaiting_inside
    | with_reducible apply onCm_inside
    | with_reducible apply backToDocked_inside
    | with_reducible refine Inside.foldl ?_ (fun _ _ _ => ?_)
    | split
    | with_reducible refine Inside.made ?_ rfl rfl rfl rfl rfl rfl rfl rfl rfl rfl rfl rfl

theorem cradleProbed_inside {id : Identity} {d₀ d : Dev} (h : Inside d₀ d) : Inside d₀ (Dev.cradleProbed id d) := by
  unfold Dev.cradleProbed
  try dsimp only
  repeat' first
    | with_reducible assumption
    | with_reducible apply undock_inside
    | with_reducible apply onSc_inside
    | with_reducible apply cradleReturned_inside
    | with_reducible apply enterProbed_inside
    | split
    | with_reducible refine Inside.made ?_ rfl rfl rfl rfl rfl rfl rfl rfl rfl rfl rfl rfl

theorem cradleMismatch_inside {d₀ d : Dev} (h : Inside d₀ d) : Inside d₀ (Dev.cradleMismatch d) := by
  unfold Dev.cradleMismatch
  try dsimp only
  repeat' first
    | with_reducible assumption
    | with_reducible apply undock_inside
    | with_reducible apply cradleResumed_inside
    | with_reducible apply resumeEntry_inside
    | split

theorem resumeDone_inside {k : Pos} {d₀ d : Dev} (h : Inside d₀ d) : Inside d₀ (Dev.resumeDone k d) := by
  unfold Dev.resumeDone
  try dsimp only
  repeat' first
    | with_reducible assumption
    | with_reducible apply cradleResumed_inside
    | with_reducible apply resumeEntry_inside
    | with_reducible apply onCm_inside
    | split
    | with_reducible refine Inside.made ?_ rfl rfl rfl rfl rfl rfl rfl rfl rfl rfl rfl rfl

theorem resumeMismatch_inside {k : Pos} {d₀ d : Dev} (h : Inside d₀ d) : Inside d₀ (Dev.resumeMismatch k d) := by
  unfold Dev.resumeMismatch
  try dsimp only
  repeat' first
    | with_reducible assumption
    | with_reducible apply resumeDone_inside
    | with_reducible apply overtakeLocate_inside
    | with_reducible apply requestRelease_inside
    | split

theorem loseHeld_inside {k : Pos} {d₀ d : Dev} (h : Inside d₀ d) : Inside d₀ (Dev.loseHeld k d) := by
  unfold Dev.loseHeld
  split
  · exact leaveBlock_inside (onEntry_inside h)
  · exact h

theorem loseFrom_inside {k : Pos} {d₀ d : Dev} (h : Inside d₀ d) : Inside d₀ (Dev.loseFrom k d) :=
  Inside.foldl h fun _ _ h => loseHeld_inside h

theorem resumeFailed_inside {k : Pos} {d₀ d : Dev} (h : Inside d₀ d) : Inside d₀ (Dev.resumeFailed k d) := by
  unfold Dev.resumeFailed
  try dsimp only
  repeat' first
    | with_reducible assumption
    | with_reducible apply onEntry_inside
    | with_reducible apply send_inside
    | with_reducible apply loseFrom_inside
    | with_reducible apply passFrom_inside
    | split
    | with_reducible refine Inside.made ?_ rfl rfl rfl rfl rfl rfl rfl rfl rfl rfl rfl rfl

theorem resumeResult_inside {k : Pos} {code : ResultCode} {d₀ d : Dev} (h : Inside d₀ d) : Inside d₀ (Dev.resumeResult k code d) := by
  unfold Dev.resumeResult
  try dsimp only
  repeat' first
    | with_reducible assumption
    | with_reducible apply undock_inside
    | with_reducible apply passFrom_inside
    | with_reducible apply resumeDone_inside
    | with_reducible apply cradleMismatch_inside
    | with_reducible apply resumeMismatch_inside
    | with_reducible apply resumeFailed_inside
    | split

theorem takeLoss_inside {k : Pos} {d₀ d : Dev} (h : Inside d₀ d) : Inside d₀ (Dev.takeLoss k d) := by
  unfold Dev.takeLoss
  try dsimp only
  repeat' first
    | with_reducible assumption
    | with_reducible apply sendAway_inside
    | with_reducible apply unschedule_inside
    | with_reducible apply logFault_inside
    | with_reducible refine Inside.foldl ?_ (fun _ _ _ => ?_)
    | split

theorem queueResume_inside {k : Pos} {d₀ d : Dev} (h : Inside d₀ d) : Inside d₀ (Dev.queueResume k d) := by
  unfold Dev.queueResume
  try dsimp only
  repeat' first
    | with_reducible assumption
    | with_reducible apply send_inside
    | with_reducible apply onCm_inside
    | with_reducible refine Inside.made ?_ rfl rfl rfl rfl rfl rfl rfl rfl rfl rfl rfl rfl

theorem resumeTimerExpiry_inside {d₀ d : Dev} (h : Inside d₀ d) : Inside d₀ (Dev.resumeTimerExpiry d) := by
  unfold Dev.resumeTimerExpiry
  try dsimp only
  repeat' first
    | with_reducible assumption
    | with_reducible apply queueResume_inside
    | split

theorem lostExpiry_inside {k : Pos} {d₀ d : Dev} (h : Inside d₀ d) : Inside d₀ (Dev.lostExpiry k d) := by
  unfold Dev.lostExpiry
  try dsimp only
  repeat' first
    | with_reducible assumption
    | with_reducible apply overtakeLocate_inside
    | with_reducible apply requestRelease_inside
    | split

theorem startSequence_inside {forDisable : Bool} {d₀ d : Dev} (h : Inside d₀ d) : Inside d₀ (Dev.startSequence forDisable d) := by
  unfold Dev.startSequence
  try dsimp only
  repeat' first
    | with_reducible assumption
    | with_reducible apply withdrawUnsent_inside
    | with_reducible apply stopDiscovery_inside
    | with_reducible apply setDock_inside
    | with_reducible apply onSc_inside
    | with_reducible apply failPosting_inside
    | with_reducible apply abandonPushes_inside
    | with_reducible refine Inside.made ?_ rfl rfl rfl rfl rfl rfl rfl rfl rfl rfl rfl rfl

theorem releasePress_inside {d₀ d : Dev} (h : Inside d₀ d) : Inside d₀ (Dev.releasePress d) := by
  unfold Dev.releasePress
  try dsimp only
  repeat' first
    | with_reducible assumption
    | with_reducible apply undock_inside
    | with_reducible apply startSequence_inside
    | split

theorem releaseRequest_inside {d₀ d : Dev} (h : Inside d₀ d) : Inside d₀ (Dev.releaseRequest d) := by
  unfold Dev.releaseRequest
  try dsimp only
  repeat' first
    | with_reducible assumption
    | with_reducible apply undock_inside
    | with_reducible apply startSequence_inside
    | split

theorem disableRequest_inside {d₀ d : Dev} (h : Inside d₀ d) : Inside d₀ (Dev.disableRequest d) := by
  unfold Dev.disableRequest
  try dsimp only
  repeat' first
    | with_reducible assumption
    | with_reducible apply undock_inside
    | with_reducible apply onSc_inside
    | with_reducible apply startSequence_inside
    | split
    | with_reducible refine Inside.made ?_ rfl rfl rfl rfl rfl rfl rfl rfl rfl rfl rfl rfl

theorem releaseFrom_inside {n : Nat} {d₀ d : Dev} (h : Inside d₀ d) : Inside d₀ (Dev.releaseFrom n d) := by
  unfold Dev.releaseFrom
  try dsimp only
  repeat' first
    | with_reducible assumption
    | with_reducible apply onSc_inside
    | with_reducible apply send_inside
    | with_reducible apply undock_inside
    | split
    | with_reducible refine Inside.made ?_ rfl rfl rfl rfl rfl rfl rfl rfl rfl rfl rfl rfl

theorem inputDrainEnd_inside {d₀ d : Dev} (h : Inside d₀ d) : Inside d₀ (Dev.inputDrainEnd d) := by
  unfold Dev.inputDrainEnd
  try dsimp only
  repeat' first
    | with_reducible assumption
    | with_reducible apply releaseFrom_inside
    | split

theorem sequenceReleased_inside {k : Pos} {d₀ d : Dev} (h : Inside d₀ d) : Inside d₀ (Dev.sequenceReleased k d) := by
  unfold Dev.sequenceReleased
  try dsimp only
  repeat' first
    | with_reducible assumption
    | with_reducible apply releaseFrom_inside
    | split

theorem releaseReturned_inside {k : Pos} {d₀ d : Dev} (h : Inside d₀ d) : Inside d₀ (Dev.releaseReturned k d) := by
  unfold Dev.releaseReturned
  try dsimp only
  repeat' first
    | with_reducible assumption
    | with_reducible apply onCm_inside
    | with_reducible refine Inside.made ?_ rfl rfl rfl rfl rfl rfl rfl rfl rfl rfl rfl rfl

theorem releaseComplete_inside {d₀ d : Dev} (h : Inside d₀ d) : Inside d₀ (Dev.releaseComplete d) := by
  unfold Dev.releaseComplete
  try dsimp only
  repeat' first
    | with_reducible assumption
    | with_reducible apply completeRelease_inside
    | split

end Sys2Proof.Safety
end

