-- ==== Sys2Proof/Laws/InsideLink.lean ====
section
/-! SUPPORT. Host memory, stamp, current schedule, part state and registers are left by the walk, the link and intake: one lemma per operation. -/
namespace Sys2Proof.Safety

open Sys2Proof.Machine

theorem setWalk_inside {k : Pos} {w : Option Walk} {d₀ d : Dev} (h : Inside d₀ d) : Inside d₀ (Dev.setWalk k w d) :=
  h.same rfl rfl rfl rfl rfl rfl rfl rfl rfl rfl rfl rfl

theorem onCaps_inside {k : Pos} {f : Caps → Caps} {d₀ d : Dev} (h : Inside d₀ d) : Inside d₀ (Dev.onCaps k f d) := by
  unfold Dev.onCaps
  try dsimp only
  repeat' first
    | with_reducible assumption
    | with_reducible apply onEntry_inside
    | with_reducible refine Inside.made ?_ rfl rfl rfl rfl rfl rfl rfl rfl rfl rfl rfl rfl

theorem endLocateAt_inside {k : Pos} {d₀ d : Dev} (h : Inside d₀ d) : Inside d₀ (Dev.endLocateAt k d) := by
  unfold Dev.endLocateAt
  try dsimp only
  repeat' first
    | with_reducible assumption
    | with_reducible apply notReproduced_inside
    | split

theorem breach_inside {k : Pos} {code : FaultCode} {d₀ d : Dev} (h : Inside d₀ d) : Inside d₀ (Dev.breach k code d) := by
  unfold Dev.breach
  try dsimp only
  repeat' first
    | with_reducible assumption
    | with_reducible apply endLocateAt_inside
    | with_reducible apply setWalk_inside
    | with_reducible apply onEntry_inside
    | with_reducible apply failEntry_inside
    | with_reducible apply placeLines_inside
    | split
    | with_reducible refine Inside.made ?_ rfl rfl rfl rfl rfl rfl rfl rfl rfl rfl rfl rfl

theorem endWalk_inside {k : Pos} {d₀ d : Dev} (h : Inside d₀ d) : Inside d₀ (Dev.endWalk k d) := by
  unfold Dev.endWalk
  try dsimp only
  repeat' first
    | with_reducible assumption
    | with_reducible apply endLocateAt_inside
    | with_reducible apply breach_inside
    | with_reducible apply onEntry_inside
    | with_reducible apply enterConfiguring_inside
    | with_reducible apply placeLines_inside
    | split
    | with_reducible refine Inside.made ?_ rfl rfl rfl rfl rfl rfl rfl rfl rfl rfl rfl rfl

theorem readAt_inside {k : Pos} {w : Walk} {o : Nat} {d₀ d : Dev} (h : Inside d₀ d) : Inside d₀ (Dev.readAt k w o d) := by
  unfold Dev.readAt
  try dsimp only
  repeat' first
    | with_reducible assumption
    | with_reducible apply setWalk_inside
    | with_reducible apply send_inside

theorem nextRecord_inside {k : Pos} {w : Walk} {next : Nat} {d₀ d : Dev} (h : Inside d₀ d) : Inside d₀ (Dev.nextRecord k w next d) := by
  unfold Dev.nextRecord
  try dsimp only
  repeat' first
    | with_reducible assumption
    | with_reducible apply endWalk_inside
    | with_reducible apply readAt_inside
    | split
    | with_reducible refine Inside.made ?_ rfl rfl rfl rfl rfl rfl rfl rfl rfl rfl rfl rfl

theorem useRecord_inside {k : Pos} {w : Walk} {kind length next : Nat} {bs : List Byte} {d₀ d : Dev} (h : Inside d₀ d) : Inside d₀ (Dev.useRecord k w kind length next bs d) := by
  unfold Dev.useRecord
  try dsimp only
  repeat' first
    | with_reducible assumption
    | with_reducible apply breach_inside
    | with_reducible apply onCaps_inside
    | with_reducible apply nextRecord_inside
    | split
    | with_reducible refine Inside.made ?_ rfl rfl rfl rfl rfl rfl rfl rfl rfl rfl rfl rfl

theorem takeRecord_inside {k : Pos} {w : Walk} {o : Nat} {buf data : List Byte} {d₀ d : Dev} (h : Inside d₀ d) : Inside d₀ (Dev.takeRecord k w o buf data d) := by
  unfold Dev.takeRecord
  try dsimp only
  repeat' first
    | with_reducible assumption
    | with_reducible apply breach_inside
    | with_reducible apply nextRecord_inside
    | with_reducible apply readAt_inside
    | with_reducible apply useRecord_inside
    | split
    | with_reducible refine Inside.made ?_ rfl rfl rfl rfl rfl rfl rfl rfl rfl rfl rfl rfl

theorem takeDescriptor_inside {k : Pos} {w : Walk} {data : List Byte} {d₀ d : Dev} (h : Inside d₀ d) : Inside d₀ (Dev.takeDescriptor k w data d) := by
  unfold Dev.takeDescriptor
  try dsimp only
  repeat' first
    | with_reducible assumption
    | with_reducible apply breach_inside
    | with_reducible apply readAt_inside
    | with_reducible apply takeRecord_inside
    | split
    | with_reducible refine Inside.made ?_ rfl rfl rfl rfl rfl rfl rfl rfl rfl rfl rfl rfl

theorem readResult_inside {k : Pos} {offset : Byte} {serial : Nat} {code : ResultCode} {data : List Byte} {d₀ d : Dev} (h : Inside d₀ d) : Inside d₀ (Dev.readResult k offset serial code data d) := by
  unfold Dev.readResult
  try dsimp only
  repeat' first
    | with_reducible assumption
    | with_reducible apply takeDescriptor_inside
    | with_reducible apply send_inside
    | with_reducible apply breach_inside
    | with_reducible apply setWalk_inside
    | split

theorem tokenTaken_inside {k : Pos} {items : List SetItem} {d₀ d : Dev} (h : Inside d₀ d) : Inside d₀ (Dev.tokenTaken k items d) := by
  unfold Dev.tokenTaken
  try dsimp only
  repeat' first
    | with_reducible assumption
    | with_reducible apply onShadow_inside
    | with_reducible apply openInput_inside
    | split

theorem sessionEnds_inside {k : Pos} {d₀ d : Dev} (h : Inside d₀ d) : Inside d₀ (Dev.sessionEnds k d) := by
  unfold Dev.sessionEnds
  try dsimp only
  repeat' first
    | with_reducible assumption
    | with_reducible apply select_inside
    | with_reducible apply startPush_inside
    | with_reducible apply sendBlock_inside
    | with_reducible apply sendLines_inside
    | with_reducible apply configuringCheck_inside
    | split
    | with_reducible refine Inside.made ?_ rfl rfl rfl rfl rfl rfl rfl rfl rfl rfl rfl rfl

theorem sessionResult_inside {k : Pos} {items : List SetItem} {serial : Nat} {code : ResultCode} {d₀ d : Dev} (h : Inside d₀ d) : Inside d₀ (Dev.sessionResult k items serial code d) := by
  unfold Dev.sessionResult
  try dsimp only
  repeat' first
    | with_reducible assumption
    | with_reducible apply sessionEnds_inside
    | with_reducible apply tokenTaken_inside
    | with_reducible apply send_inside
    | with_reducible apply failEntry_inside
    | split

theorem irSetResult_inside {k : Pos} {items : List SetItem} {code : ResultCode} {d₀ d : Dev} (h : Inside d₀ d) : Inside d₀ (Dev.irSetResult k items code d) := by
  unfold Dev.irSetResult
  try dsimp only
  repeat' first
    | with_reducible assumption
    | with_reducible apply settingResult_inside
    | with_reducible apply failEntry_inside
    | with_reducible apply configuringCheck_inside
    | split

theorem blockResult_inside {k : Pos} {block : W64} {code : ResultCode} {d₀ d : Dev} (h : Inside d₀ d) : Inside d₀ (Dev.blockResult k block code d) := by
  unfold Dev.blockResult
  try dsimp only
  repeat' first
    | with_reducible assumption
    | with_reducible apply resendBlock_inside
    | with_reducible apply onPcu_inside
    | with_reducible apply onCm_inside
    | with_reducible apply sendBlock_inside
    | with_reducible apply configuringCheck_inside
    | with_reducible apply failEntry_inside
    | split
    | with_reducible refine Inside.made ?_ rfl rfl rfl rfl rfl rfl rfl rfl rfl rfl rfl rfl

theorem withResult_inside {p : CtrlResult → Bool} {f : CtrlResult → ResultCode → Dev → Dev} {a d : Dev} (h : Inside a d)
    (hf : ∀ r c d, Inside a d → Inside a (f r c d)) : Inside a (Dev.withResult p f d) := by
  unfold Dev.withResult
  split
  · exact h
  · exact hf _ _ _ (h.same rfl rfl rfl rfl rfl rfl rfl rfl rfl rfl rfl rfl)

theorem setInFlight_inside {k : Pos} {probe : Bool} {f : Msg → Option Msg} {d₀ d : Dev} (h : Inside d₀ d) : Inside d₀ (Dev.setInFlight k probe f d) := by
  unfold Dev.setInFlight
  try dsimp only
  repeat' first
    | with_reducible assumption
    | with_reducible apply setQueue_inside
    | split

theorem withdrawnLeaves_inside {k : Pos} {m : Msg} {d₀ d : Dev} (h : Inside d₀ d) : Inside d₀ (Dev.withdrawnLeaves k m d) := by
  unfold Dev.withdrawnLeaves
  try dsimp only
  repeat' first
    | with_reducible assumption
    | with_reducible apply learnShadow_inside
    | with_reducible apply confirmLines_inside
    | with_reducible apply settleLines_inside
    | split

theorem endMessage_inside {k : Pos} {probe : Bool} {m : Msg} {code : ResultCode} {data : List Byte} {d₀ d : Dev} (h : Inside d₀ d) : Inside d₀ (Dev.endMessage k probe m code data d) := by
  unfold Dev.endMessage
  try dsimp only
  repeat' first
    | with_reducible assumption
    | with_reducible apply setInFlight_inside
    | with_reducible apply addResult_inside

theorem busyReply_inside {k : Pos} {probe : Bool} {m : Msg} {d₀ d : Dev} (h : Inside d₀ d) : Inside d₀ (Dev.busyReply k probe m d) := by
  unfold Dev.busyReply
  try dsimp only
  repeat' first
    | with_reducible assumption
    | with_reducible apply endMessage_inside
    | with_reducible apply setInFlight_inside
    | split
    | with_reducible refine Inside.made ?_ rfl rfl rfl rfl rfl rfl rfl rfl rfl rfl rfl rfl

theorem missedReply_inside {k : Pos} {probe : Bool} {m : Msg} {d₀ d : Dev} (h : Inside d₀ d) : Inside d₀ (Dev.missedReply k probe m d) := by
  unfold Dev.missedReply
  try dsimp only
  repeat' first
    | with_reducible assumption
    | with_reducible apply endMessage_inside
    | with_reducible apply setInFlight_inside
    | split
    | with_reducible refine Inside.made ?_ rfl rfl rfl rfl rfl rfl rfl rfl rfl rfl rfl rfl

theorem takeReply_inside {k : Pos} {probe : Bool} {a : Option Answer} {d₀ d : Dev} (h : Inside d₀ d) : Inside d₀ (Dev.takeReply k probe a d) := by
  unfold Dev.takeReply
  try dsimp only
  repeat' first
    | with_reducible assumption
    | with_reducible apply endMessage_inside
    | with_reducible apply setInFlight_inside
    | with_reducible apply withdrawnLeaves_inside
    | with_reducible apply busyReply_inside
    | with_reducible apply missedReply_inside
    | split

theorem goodHit_inside {k : Pos} {d₀ d : Dev} (h : Inside d₀ d) : Inside d₀ (Dev.goodHit k d) := by
  unfold Dev.goodHit
  try dsimp only
  repeat' first
    | with_reducible assumption
    | split
    | with_reducible refine Inside.made ?_ rfl rfl rfl rfl rfl rfl rfl rfl rfl rfl rfl rfl

theorem missHit_inside {k : Pos} {d₀ d : Dev} (h : Inside d₀ d) : Inside d₀ (Dev.missHit k d) := by
  unfold Dev.missHit
  try dsimp only
  repeat' first
    | with_reducible assumption
    | split
    | with_reducible refine Inside.made ?_ rfl rfl rfl rfl rfl rfl rfl rfl rfl rfl rfl rfl

theorem errorHit_inside {k : Pos} {d₀ d : Dev} (h : Inside d₀ d) : Inside d₀ (Dev.errorHit k d) := by
  unfold Dev.errorHit
  try dsimp only
  repeat' first
    | with_reducible assumption
    | with_reducible apply checkDegraded_inside
    | split
    | with_reducible refine Inside.made ?_ rfl rfl rfl rfl rfl rfl rfl rfl rfl rfl rfl rfl

theorem countInterruption_inside {k : Pos} {d₀ d : Dev} (h : Inside d₀ d) : Inside d₀ (Dev.countInterruption k d) := by
  unfold Dev.countInterruption
  try dsimp only
  repeat' first
    | with_reducible assumption
    | split
    | with_reducible refine Inside.made ?_ rfl rfl rfl rfl rfl rfl rfl rfl rfl rfl rfl rfl

theorem takeEntry_inside {k : Pos} {e : InputEntry} {d₀ d : Dev} (h : Inside d₀ d) : Inside d₀ (Dev.takeEntry k e d) := by
  unfold Dev.takeEntry
  try dsimp only
  repeat' first
    | with_reducible assumption
    | split
    | with_reducible refine Inside.made ?_ rfl rfl rfl rfl rfl rfl rfl rfl rfl rfl rfl rfl

theorem takeLost_inside {k : Pos} {lost : W16} {d₀ d : Dev} (h : Inside d₀ d) : Inside d₀ (Dev.takeLost k lost d) := by
  unfold Dev.takeLost
  try dsimp only
  repeat' first
    | with_reducible assumption
    | with_reducible apply stageMarker_inside
    | with_reducible apply onIc_inside
    | split
    | with_reducible refine Inside.made ?_ rfl rfl rfl rfl rfl rfl rfl rfl rfl rfl rfl rfl

theorem takeInput_inside {k : Pos} {a : Answer} {d₀ d : Dev} (h : Inside d₀ d) : Inside d₀ (Dev.takeInput k a d) := by
  unfold Dev.takeInput
  try dsimp only
  repeat' first
    | with_reducible assumption
    | with_reducible apply takeEntry_inside
    | with_reducible apply takeLost_inside
    | with_reducible apply onSc_inside
    | with_reducible refine Inside.foldl ?_ (fun _ _ _ => ?_)
    | split
    | with_reducible refine Inside.made ?_ rfl rfl rfl rfl rfl rfl rfl rfl rfl rfl rfl rfl

theorem takeCradle_inside {k : Pos} {a : Answer} {d₀ d : Dev} (h : Inside d₀ d) : Inside d₀ (Dev.takeCradle k a d) := by
  unfold Dev.takeCradle
  try dsimp only
  repeat' first
    | with_reducible assumption
    | with_reducible apply takeSupply_inside
    | split

theorem takeLineLevels_inside {k : Pos} {a : Answer} {d₀ d : Dev} (h : Inside d₀ d) : Inside d₀ (Dev.takeLineLevels k a d) := by
  unfold Dev.takeLineLevels
  try dsimp only
  repeat' first
    | with_reducible assumption
    | with_reducible apply takeLevels_inside
    | split

theorem takeSenseCode_inside {k : Pos} {a : Answer} {d₀ d : Dev} (h : Inside d₀ d) : Inside d₀ (Dev.takeSenseCode k a d) := by
  unfold Dev.takeSenseCode
  try dsimp only
  repeat' first
    | with_reducible assumption
    | with_reducible apply takeSense_inside
    | split

theorem takeDisplayFields_inside {k : Pos} {a : Answer} {d₀ d : Dev} (h : Inside d₀ d) : Inside d₀ (Dev.takeDisplayFields k a d) := by
  unfold Dev.takeDisplayFields
  try dsimp only
  repeat' first
    | with_reducible assumption
    | with_reducible apply takeDisplay_inside
    | split

theorem handOut_inside {k : Pos} {a : Answer} {d₀ d : Dev} (h : Inside d₀ d) : Inside d₀ (Dev.handOut k a d) := by
  unfold Dev.handOut
  try dsimp only
  repeat' first
    | with_reducible assumption
    | with_reducible apply takeReply_inside
    | with_reducible apply takeInput_inside
    | with_reducible apply takeSenseCode_inside
    | with_reducible apply takeCradle_inside
    | with_reducible apply takeLineLevels_inside
    | with_reducible apply takeDisplayFields_inside
    | split

theorem answerWindow_inside {k : Pos} {frame : Option (List Byte)} {d₀ d : Dev} (h : Inside d₀ d) : Inside d₀ (Dev.answerWindow k frame d) := by
  unfold Dev.answerWindow
  try dsimp only
  repeat' first
    | with_reducible assumption
    | with_reducible apply goodHit_inside
    | with_reducible apply handOut_inside
    | with_reducible apply missHit_inside
    | with_reducible apply takeReply_inside
    | with_reducible apply errorHit_inside
    | with_reducible apply countInterruption_inside
    | split
    | with_reducible refine Inside.made ?_ rfl rfl rfl rfl rfl rfl rfl rfl rfl rfl rfl rfl

theorem probeAnswer_inside {frame : Option (List Byte)} {d₀ d : Dev} (h : Inside d₀ d) : Inside d₀ (Dev.probeAnswer frame d) := by
  unfold Dev.probeAnswer
  try dsimp only
  repeat' first
    | with_reducible assumption
    | with_reducible apply takeReply_inside
    | split
    | with_reducible refine Inside.made ?_ rfl rfl rfl rfl rfl rfl rfl rfl rfl rfl rfl rfl

theorem closeWindows_inside {d₀ d : Dev} (h : Inside d₀ d) : Inside d₀ (Dev.closeWindows d) := by
  unfold Dev.closeWindows
  try dsimp only
  repeat' first
    | with_reducible assumption
    | with_reducible apply answerWindow_inside
    | with_reducible apply probeAnswer_inside
    | with_reducible refine Inside.foldl ?_ (fun _ _ _ => ?_)

theorem sendMessage_inside {k : Pos} {i : Nat} {a d : Dev} (h : Inside a d) : Inside a (Dev.sendMessage k i d) := by
  unfold Dev.sendMessage
  split
  · exact h
  · dsimp only
    split
    · exact h.same rfl rfl rfl rfl rfl rfl rfl rfl rfl rfl rfl rfl
    · exact setQueue_inside h

theorem advanceTiles_inside {n : Nat} {d₀ d : Dev} (h : Inside d₀ d) : Inside d₀ (Dev.advanceTiles n d) := by
  unfold Dev.advanceTiles
  try dsimp only
  repeat' first
    | with_reducible assumption
    | with_reducible apply onPosting_inside
    | with_reducible refine Inside.made ?_ rfl rfl rfl rfl rfl rfl rfl rfl rfl rfl rfl rfl

theorem sendTraffic_inside {d₀ d : Dev} (h : Inside d₀ d) : Inside d₀ (Dev.sendTraffic d) := by
  unfold Dev.sendTraffic
  try dsimp only
  repeat' first
    | with_reducible assumption
    | with_reducible apply sendMessage_inside
    | with_reducible apply advanceTiles_inside
    | with_reducible refine Inside.foldl ?_ (fun _ _ _ => ?_)
    | split
    | with_reducible refine Inside.made ?_ rfl rfl rfl rfl rfl rfl rfl rfl rfl rfl rfl rfl

theorem sendNothing_inside {d₀ d : Dev} (h : Inside d₀ d) : Inside d₀ (Dev.sendNothing d) :=
  h.same rfl rfl rfl rfl rfl rfl rfl rfl rfl rfl rfl rfl

theorem onSec_inside {id : SecId} {f : Sec → Sec} {d₀ d : Dev} (h : Inside d₀ d) : Inside d₀ (Dev.onSec id f d) := by
  unfold Dev.onSec
  try dsimp only
  repeat' first
    | with_reducible assumption
    | with_reducible apply onPub_inside

theorem sendNotice_inside {d₀ d : Dev} (h : Inside d₀ d) : Inside d₀ (Dev.sendNotice d) := by
  unfold Dev.sendNotice
  try dsimp only
  repeat' first
    | with_reducible assumption
    | with_reducible refine onXp_inside ?_ rfl rfl rfl rfl rfl rfl rfl
    | split
    | with_reducible refine Inside.made ?_ rfl rfl rfl rfl rfl rfl rfl rfl rfl rfl rfl rfl

theorem setEngine_inside {a : Option Access} {d₀ d : Dev} (h : Inside d₀ d) : Inside d₀ (Dev.setEngine a d) := by
  unfold Dev.setEngine
  try dsimp only
  repeat' first
    | with_reducible assumption
    | with_reducible refine onXp_inside ?_ rfl rfl rfl rfl rfl rfl rfl
    | with_reducible refine Inside.made ?_ rfl rfl rfl rfl rfl rfl rfl rfl rfl rfl rfl rfl

theorem setPass_inside {p : Option ScanPass} {d₀ d : Dev} (h : Inside d₀ d) : Inside d₀ (Dev.setPass p d) := by
  unfold Dev.setPass
  try dsimp only
  repeat' first
    | with_reducible assumption
    | with_reducible apply onIr_inside
    | with_reducible refine Inside.made ?_ rfl rfl rfl rfl rfl rfl rfl rfl rfl rfl rfl rfl

theorem nextRecordOf_inside {r : IntentRec} {d₀ d : Dev} (h : Inside d₀ d) : Inside d₀ (Dev.nextRecordOf r d) := by
  unfold Dev.nextRecordOf
  try dsimp only
  repeat' first
    | with_reducible assumption
    | with_reducible apply setPass_inside
    | with_reducible apply onIr_inside
    | split
    | with_reducible refine Inside.made ?_ rfl rfl rfl rfl rfl rfl rfl rfl rfl rfl rfl rfl

theorem scanIntent_inside {d₀ d : Dev} (h : Inside d₀ d) : Inside d₀ (Dev.scanIntent d) := by
  unfold Dev.scanIntent
  try dsimp only
  repeat' first
    | with_reducible assumption
    | with_reducible apply onIr_inside
    | split
    | with_reducible refine Inside.made ?_ rfl rfl rfl rfl rfl rfl rfl rfl rfl rfl rfl rfl

theorem takeGlobalSc_inside {g : GlobalIntent} {first : Bool} {d₀ d : Dev} (h : Inside d₀ d) : Inside d₀ (Dev.takeGlobalSc g first d) := by
  unfold Dev.takeGlobalSc
  try dsimp only
  repeat' first
    | with_reducible assumption
    | with_reducible apply onSc_inside
    | with_reducible apply releaseRequest_inside
    | with_reducible refine when_inside ?_ (fun _ => ?_)
    | with_reducible refine Inside.made ?_ rfl rfl rfl rfl rfl rfl rfl rfl rfl rfl rfl rfl

theorem takeGlobalCm_inside {g : GlobalIntent} {first : Bool} {d₀ d : Dev} (h : Inside d₀ d) : Inside d₀ (Dev.takeGlobalCm g first d) := by
  unfold Dev.takeGlobalCm
  try dsimp only
  repeat' first
    | with_reducible assumption
    | with_reducible apply onCm_inside
    | with_reducible apply chainRetry_inside
    | with_reducible apply locateRequest_inside
    | with_reducible refine when_inside ?_ (fun _ => ?_)
    | with_reducible refine Inside.made ?_ rfl rfl rfl rfl rfl rfl rfl rfl rfl rfl rfl rfl

theorem takeGlobalPcu_inside {g : GlobalIntent} {d₀ d : Dev} (h : Inside d₀ d) : Inside d₀ (Dev.takeGlobalPcu g d) := by
  unfold Dev.takeGlobalPcu
  try dsimp only
  repeat' first
    | with_reducible assumption
    | with_reducible apply onPcu_inside
    | with_reducible apply supplyCause_inside
    | with_reducible refine when_inside ?_ (fun _ => ?_)
    | with_reducible refine Inside.made ?_ rfl rfl rfl rfl rfl rfl rfl rfl rfl rfl rfl rfl

theorem takeGlobalSlu_inside {g : GlobalIntent} {d₀ d : Dev} (h : Inside d₀ d) : Inside d₀ (Dev.takeGlobalSlu g d) := by
  unfold Dev.takeGlobalSlu
  try dsimp only
  repeat' first
    | with_reducible assumption
    | with_reducible apply onLine_inside
    | with_reducible apply placeLines_inside
    | with_reducible refine when_inside ?_ (fun _ => ?_)
    | with_reducible refine Inside.foldl ?_ (fun _ _ _ => ?_)
    | with_reducible refine Inside.made ?_ rfl rfl rfl rfl rfl rfl rfl rfl rfl rfl rfl rfl

theorem takeGlobalSerials_inside {g : GlobalIntent} {first : Bool} {d₀ d : Dev} (h : Inside d₀ d) : Inside d₀ (Dev.takeGlobalSerials g first d) := by
  unfold Dev.takeGlobalSerials
  try dsimp only
  repeat' first
    | with_reducible assumption
    | with_reducible apply takeGlobalSc_inside
    | with_reducible apply takeGlobalCm_inside
    | split
    | with_reducible refine Inside.made ?_ rfl rfl rfl rfl rfl rfl rfl rfl rfl rfl rfl rfl

theorem globalApplied_inside {gen : W32} {refused : Bool} {field : Byte} {d₀ d : Dev} (h : Inside d₀ d) : Inside d₀ (Dev.globalApplied gen refused field d) := by
  unfold Dev.globalApplied
  try dsimp only
  repeat' first
    | with_reducible assumption
    | with_reducible apply onIr_inside
    | with_reducible apply onPub_inside
    | with_reducible refine Inside.made ?_ rfl rfl rfl rfl rfl rfl rfl rfl rfl rfl rfl rfl

theorem acceptGlobal_inside {gen : W32} {g : GlobalIntent} {d₀ d : Dev} (h : Inside d₀ d) : Inside d₀ (Dev.acceptGlobal gen g d) := by
  unfold Dev.acceptGlobal
  try dsimp only
  repeat' first
    | with_reducible assumption
    | with_reducible apply globalApplied_inside
    | with_reducible apply onIr_inside
    | with_reducible apply setThreshold_inside
    | with_reducible apply takeGlobalPcu_inside
    | with_reducible apply takeGlobalSlu_inside
    | with_reducible apply takeGlobalSerials_inside
    | with_reducible refine onXp_inside ?_ rfl rfl rfl rfl rfl rfl rfl
    | with_reducible refine Inside.made ?_ rfl rfl rfl rfl rfl rfl rfl rfl rfl rfl rfl rfl

theorem takeGlobal_inside {gen : W32} {data : BitVec 320} {d₀ d : Dev} (h : Inside d₀ d) : Inside d₀ (Dev.takeGlobal gen data d) := by
  unfold Dev.takeGlobal
  try dsimp only
  repeat' first
    | with_reducible assumption
    | with_reducible apply globalApplied_inside
    | with_reducible apply acceptGlobal_inside
    | split

theorem requestLevels_inside {k : Pos} {n : NodeIntent} {d₀ d : Dev} (h : Inside d₀ d) : Inside d₀ (Dev.requestLevels k n d) := by
  unfold Dev.requestLevels
  try dsimp only
  repeat' first
    | with_reducible assumption
    | with_reducible apply onPcu_inside
    | with_reducible refine Inside.made ?_ rfl rfl rfl rfl rfl rfl rfl rfl rfl rfl rfl rfl

theorem pendRecord_inside {k : Pos} {gen : W32} {d₀ d : Dev} (h : Inside d₀ d) : Inside d₀ (Dev.pendRecord k gen d) := by
  unfold Dev.pendRecord
  try dsimp only
  repeat' first
    | with_reducible assumption
    | with_reducible apply onIrPos_inside
    | with_reducible apply wantApplied_inside
    | with_reducible refine Inside.made ?_ rfl rfl rfl rfl rfl rfl rfl rfl rfl rfl rfl rfl

theorem acceptNode_inside {k : Pos} {gen : W32} {n : NodeIntent} {d₀ d : Dev} (h : Inside d₀ d) : Inside d₀ (Dev.acceptNode k gen n d) := by
  unfold Dev.acceptNode
  try dsimp only
  repeat' first
    | with_reducible assumption
    | with_reducible apply onIrPos_inside
    | with_reducible apply requestLevels_inside
    | with_reducible apply startPush_inside
    | with_reducible apply pendRecord_inside
    | split
    | with_reducible refine Inside.made ?_ rfl rfl rfl rfl rfl rfl rfl rfl rfl rfl rfl rfl

theorem refuseNode_inside {k : Pos} {gen : W32} {field : Byte} {d₀ d : Dev} (h : Inside d₀ d) : Inside d₀ (Dev.refuseNode k gen field d) := by
  unfold Dev.refuseNode
  try dsimp only
  repeat' first
    | with_reducible assumption
    | with_reducible apply onIrPos_inside
    | with_reducible apply wantApplied_inside
    | with_reducible refine Inside.made ?_ rfl rfl rfl rfl rfl rfl rfl rfl rfl rfl rfl rfl

theorem takeNode_inside {k : Pos} {gen : W32} {data : BitVec 112} {d₀ d : Dev} (h : Inside d₀ d) : Inside d₀ (Dev.takeNode k gen data d) := by
  unfold Dev.takeNode
  try dsimp only
  repeat' first
    | with_reducible assumption
    | with_reducible apply refuseNode_inside
    | with_reducible apply acceptNode_inside
    | split

theorem takeRecordOf_inside {p : ScanPass} {d₀ d : Dev} (h : Inside d₀ d) : Inside d₀ (Dev.takeRecordOf p d) := by
  unfold Dev.takeRecordOf
  try dsimp only
  repeat' first
    | with_reducible assumption
    | with_reducible apply takeGlobal_inside
    | with_reducible apply takeNode_inside
    | split

theorem closeRead_inside {p : ScanPass} {g : W32} {d₀ d : Dev} (h : Inside d₀ d) : Inside d₀ (Dev.closeRead p g d) := by
  unfold Dev.closeRead
  try dsimp only
  repeat' first
    | with_reducible assumption
    | with_reducible apply nextRecordOf_inside
    | with_reducible apply setPass_inside
    | split
    | with_reducible refine Inside.made ?_ rfl rfl rfl rfl rfl rfl rfl rfl rfl rfl rfl rfl

theorem openRead_inside {p : ScanPass} {g : W32} {d₀ d : Dev} (h : Inside d₀ d) : Inside d₀ (Dev.openRead p g d) := by
  unfold Dev.openRead
  try dsimp only
  repeat' first
    | with_reducible assumption
    | with_reducible apply nextRecordOf_inside
    | with_reducible apply takeRecordOf_inside
    | with_reducible apply onIr_inside
    | with_reducible apply onPub_inside
    | split
    | with_reducible refine Inside.made ?_ rfl rfl rfl rfl rfl rfl rfl rfl rfl rfl rfl rfl

theorem passRead_inside {p : ScanPass} {x : IntentData} {d₀ d : Dev} (h : Inside d₀ d) : Inside d₀ (Dev.passRead p x d) := by
  unfold Dev.passRead
  try dsimp only
  repeat' first
    | with_reducible assumption
    | with_reducible apply closeRead_inside
    | with_reducible apply setPass_inside
    | with_reducible apply openRead_inside
    | split
    | with_reducible refine Inside.made ?_ rfl rfl rfl rfl rfl rfl rfl rfl rfl rfl rfl rfl

end Sys2Proof.Safety
end

