-- ==== Sys2Proof/Laws/InsideStep.lean ====
section
/-! SUPPORT. Host memory, stamp, current schedule, part state and registers are left by the small commands and the parts of a boundary: one lemma per operation. -/
namespace Sys2Proof.Safety

open Sys2Proof.Machine

theorem allocateAfter_inside {old : Dev} {d₀ d : Dev} (h : Inside d₀ d) : Inside d₀ (Dev.allocateAfter old d) := by
  unfold Dev.allocateAfter
  try dsimp only
  repeat' first
    | with_reducible assumption
    | with_reducible apply allocate_inside
    | split

theorem unblock_inside {k : Pos} {d₀ d : Dev} (h : Inside d₀ d) : Inside d₀ (Dev.unblock k d) := by
  unfold Dev.unblock
  try dsimp only
  repeat' first
    | with_reducible assumption
    | with_reducible apply onIrPos_inside
    | split
    | with_reducible refine Inside.made ?_ rfl rfl rfl rfl rfl rfl rfl rfl rfl rfl rfl rfl

theorem followLost_inside {d₀ d : Dev} (h : Inside d₀ d) : Inside d₀ (Dev.followLost d) := by
  unfold Dev.followLost
  try dsimp only
  repeat' first
    | with_reducible assumption
    | with_reducible apply onCm_inside
    | split
    | with_reducible refine Inside.made ?_ rfl rfl rfl rfl rfl rfl rfl rfl rfl rfl rfl rfl

theorem wantSec_inside {id : SecId} {d₀ d : Dev} (h : Inside d₀ d) : Inside d₀ (Dev.wantSec id d) := by
  unfold Dev.wantSec
  try dsimp only
  repeat' first
    | with_reducible assumption
    | with_reducible apply onSec_inside

theorem wantSections_inside {old : Dev} {d₀ d : Dev} (h : Inside d₀ d) : Inside d₀ (Dev.wantSections old d) := by
  unfold Dev.wantSections
  try dsimp only
  repeat' first
    | with_reducible assumption
    | with_reducible apply wantSec_inside
    | with_reducible refine when_inside ?_ (fun _ => ?_)
    | with_reducible refine Inside.foldl ?_ (fun _ _ _ => ?_)

theorem wantCursor_inside {old : Dev} {d₀ d : Dev} (h : Inside d₀ d) : Inside d₀ (Dev.wantCursor old d) := by
  unfold Dev.wantCursor
  try dsimp only
  repeat' first
    | with_reducible assumption
    | with_reducible apply onPub_inside
    | with_reducible refine Inside.made ?_ rfl rfl rfl rfl rfl rfl rfl rfl rfl rfl rfl rfl

/-- What follows a step stays inside the superframe. -/
theorem settle_inside {old a d : Dev} (h : Inside a d) : Inside a (Dev.settle old d) := by
  have s := settle_settled old d
  refine h.same s.mem s.pcie ?_ ?_ ?_ ?_ ?_ ?_ ?_ ?_ ?_ ?_ <;> first | rw [s.le] | rw [s.xp]

theorem frontierTimer_inside {d₀ d : Dev} (h : Inside d₀ d) : Inside d₀ (Dev.frontierTimer d) := by
  unfold Dev.frontierTimer
  try dsimp only
  repeat' first
    | with_reducible assumption
    | with_reducible apply settle_inside
    | with_reducible apply frontierExpiry_inside
    | split

theorem walkProbed_inside {k : Pos} {d₀ d : Dev} (h : Inside d₀ d) : Inside d₀ (Dev.walkProbed k d) := by
  unfold Dev.walkProbed
  try dsimp only
  repeat' first
    | with_reducible assumption
    | with_reducible apply startWalk_inside
    | split

theorem endSuperframe_inside {d₀ d : Dev} (h : Inside d₀ d) : Inside d₀ (Dev.endSuperframe d) := by
  unfold Dev.endSuperframe
  try dsimp only
  repeat' first
    | with_reducible assumption
    | with_reducible apply walkProbed_inside
    | with_reducible apply closeWindows_inside
    | with_reducible apply sendBlock_inside
    | with_reducible apply sendLines_inside
    | with_reducible refine Inside.foldl ?_ (fun _ _ _ => ?_)

theorem tickSc_inside {d₀ d : Dev} (h : Inside d₀ d) : Inside d₀ (Dev.tickSc d) := by
  unfold Dev.tickSc
  try dsimp only
  repeat' first
    | with_reducible assumption
    | with_reducible apply onSc_inside
    | split
    | with_reducible refine Inside.made ?_ rfl rfl rfl rfl rfl rfl rfl rfl rfl rfl rfl rfl

theorem tickCm_inside {d₀ d : Dev} (h : Inside d₀ d) : Inside d₀ (Dev.tickCm d) := by
  unfold Dev.tickCm
  try dsimp only
  repeat' first
    | with_reducible assumption
    | with_reducible apply onCm_inside
    | with_reducible refine Inside.made ?_ rfl rfl rfl rfl rfl rfl rfl rfl rfl rfl rfl rfl

theorem tickIr_inside {d₀ d : Dev} (h : Inside d₀ d) : Inside d₀ (Dev.tickIr d) := by
  unfold Dev.tickIr
  try dsimp only
  repeat' first
    | with_reducible assumption
    | with_reducible apply onIr_inside
    | with_reducible refine Inside.made ?_ rfl rfl rfl rfl rfl rfl rfl rfl rfl rfl rfl rfl

theorem tickPcu_inside {d₀ d : Dev} (h : Inside d₀ d) : Inside d₀ (Dev.tickPcu d) := by
  unfold Dev.tickPcu
  try dsimp only
  repeat' first
    | with_reducible assumption
    | with_reducible apply onPcu_inside
    | split
    | with_reducible refine Inside.made ?_ rfl rfl rfl rfl rfl rfl rfl rfl rfl rfl rfl rfl

theorem tickIc_inside {d₀ d : Dev} (h : Inside d₀ d) : Inside d₀ (Dev.tickIc d) := by
  unfold Dev.tickIc
  try dsimp only
  repeat' first
    | with_reducible assumption
    | with_reducible apply onIc_inside
    | with_reducible refine Inside.made ?_ rfl rfl rfl rfl rfl rfl rfl rfl rfl rfl rfl rfl

theorem tickDtu_inside {d₀ d : Dev} (h : Inside d₀ d) : Inside d₀ (Dev.tickDtu d) := by
  unfold Dev.tickDtu
  try dsimp only
  repeat' first
    | with_reducible assumption
    | with_reducible apply onPosting_inside
    | split
    | with_reducible refine Inside.made ?_ rfl rfl rfl rfl rfl rfl rfl rfl rfl rfl rfl rfl

theorem tickAll_inside {d₀ d : Dev} (h : Inside d₀ d) : Inside d₀ (Dev.tickAll d) := by
  unfold Dev.tickAll
  try dsimp only
  repeat' first
    | with_reducible assumption
    | with_reducible apply tickSc_inside
    | with_reducible apply tickCm_inside
    | with_reducible apply tickIr_inside
    | with_reducible apply tickPcu_inside
    | with_reducible apply tickIc_inside

theorem resumeAtOnce_inside {d₀ d : Dev} (h : Inside d₀ d) : Inside d₀ (Dev.resumeAtOnce d) := by
  unfold Dev.resumeAtOnce
  try dsimp only
  repeat' first
    | with_reducible assumption
    | with_reducible apply queueResume_inside
    | with_reducible apply onCm_inside
    | split
    | with_reducible refine Inside.made ?_ rfl rfl rfl rfl rfl rfl rfl rfl rfl rfl rfl rfl

theorem traffic_inside {d₀ d : Dev} (h : Inside d₀ d) : Inside d₀ (Dev.traffic d) := by
  unfold Dev.traffic
  try dsimp only
  repeat' first
    | with_reducible assumption
    | with_reducible apply sendTraffic_inside
    | with_reducible apply sendNothing_inside
    | split

theorem reoffer_inside {o : QueueOffer} {d₀ d : Dev} (h : Inside d₀ d) : Inside d₀ (Dev.reoffer o d) := by
  unfold Dev.reoffer
  split
  · split <;> next e => first | exact keepOffer_inside (submitted_inside h e) | exact submitted_inside h e
  · exact configuringCheck_inside (pushStep_inside h)
  · exact queueSupply_inside h
  · split
    · exact queueBlock_inside h
    · exact h

theorem queueReoffer_inside {d₀ d : Dev} (h : Inside d₀ d) : Inside d₀ (Dev.queueReoffer d) := by
  unfold Dev.queueReoffer
  try dsimp only
  repeat' first
    | with_reducible assumption
    | with_reducible apply reoffer_inside
    | split
    | with_reducible refine Inside.made ?_ rfl rfl rfl rfl rfl rfl rfl rfl rfl rfl rfl rfl

theorem answerIn_inside {w : Window} {frame : Option (List Byte)} {d₀ d : Dev} (h : Inside d₀ d) : Inside d₀ (Dev.answerIn w frame d) := by
  unfold Dev.answerIn
  try dsimp only
  repeat' first
    | with_reducible assumption
    | with_reducible apply answerWindow_inside
    | with_reducible apply probeAnswer_inside
    | split

theorem lossReport_inside {k : Pos} {d₀ d : Dev} (h : Inside d₀ d) : Inside d₀ (Dev.lossReport k d) := by
  unfold Dev.lossReport
  try dsimp only
  repeat' first
    | with_reducible assumption
    | with_reducible apply takeLoss_inside
    | with_reducible refine onLe_inside ?_ rfl rfl rfl
    | split
    | with_reducible refine Inside.made ?_ rfl rfl rfl rfl rfl rfl rfl rfl rfl rfl rfl rfl

theorem interruptionReport_inside {d₀ d : Dev} (h : Inside d₀ d) : Inside d₀ (Dev.interruptionReport d) := by
  unfold Dev.interruptionReport
  try dsimp only
  repeat' first
    | with_reducible assumption
    | with_reducible apply undock_inside
    | with_reducible apply beginHold_inside
    | with_reducible refine onLe_inside ?_ rfl rfl rfl
    | split
    | with_reducible refine Inside.made ?_ rfl rfl rfl rfl rfl rfl rfl rfl rfl rfl rfl rfl

theorem errorWindowEnd_inside {d₀ d : Dev} (h : Inside d₀ d) : Inside d₀ (Dev.errorWindowEnd d) := by
  unfold Dev.errorWindowEnd
  try dsimp only
  repeat' first
    | with_reducible assumption
    | with_reducible refine onLe_inside ?_ rfl rfl rfl
    | split

theorem probeResult_inside {r : CtrlResult} {code : ResultCode} {d₀ d : Dev} (h : Inside d₀ d) : Inside d₀ (Dev.probeResult r code d) := by
  unfold Dev.probeResult
  try dsimp only
  repeat' first
    | with_reducible assumption
    | with_reducible apply cradleProbed_inside
    | with_reducible apply probeTaken_inside
    | with_reducible apply probeFailed_inside
    | split

theorem readDone_inside {r : CtrlResult} {code : ResultCode} {d₀ d : Dev} (h : Inside d₀ d) : Inside d₀ (Dev.readDone r code d) := by
  unfold Dev.readDone
  try dsimp only
  repeat' first
    | with_reducible assumption
    | with_reducible apply readResult_inside
    | split

theorem setDone_inside {r : CtrlResult} {code : ResultCode} {d₀ d : Dev} (h : Inside d₀ d) : Inside d₀ (Dev.setDone r code d) := by
  unfold Dev.setDone
  try dsimp only
  repeat' first
    | with_reducible assumption
    | with_reducible apply sessionResult_inside
    | with_reducible apply irSetResult_inside
    | with_reducible apply linesResult_inside
    | with_reducible apply sendLines_inside
    | split

theorem segmentDone_inside {r : CtrlResult} {code : ResultCode} {d₀ d : Dev} (h : Inside d₀ d) : Inside d₀ (Dev.segmentDone r code d) := by
  unfold Dev.segmentDone
  try dsimp only
  repeat' first
    | with_reducible assumption
    | with_reducible apply segmentResult_inside
    | split

theorem supplyDone_inside {r : CtrlResult} {code : ResultCode} {d₀ d : Dev} (h : Inside d₀ d) : Inside d₀ (Dev.supplyDone r code d) := by
  unfold Dev.supplyDone
  try dsimp only
  repeat' first
    | with_reducible assumption
    | with_reducible apply baseResult_inside
    | with_reducible apply contractResult_inside
    | split

theorem commitDone_inside {r : CtrlResult} {code : ResultCode} {d₀ d : Dev} (h : Inside d₀ d) : Inside d₀ (Dev.commitDone r code d) := by
  unfold Dev.commitDone
  try dsimp only
  repeat' first
    | with_reducible assumption
    | with_reducible apply commitResult_inside
    | split

theorem blockDone_inside {r : CtrlResult} {code : ResultCode} {d₀ d : Dev} (h : Inside d₀ d) : Inside d₀ (Dev.blockDone r code d) := by
  unfold Dev.blockDone
  try dsimp only
  repeat' first
    | with_reducible assumption
    | with_reducible apply blockResult_inside
    | split

theorem releaseDone_inside {r : CtrlResult} {d₀ d : Dev} (h : Inside d₀ d) : Inside d₀ (Dev.releaseDone r d) := by
  unfold Dev.releaseDone
  try dsimp only
  repeat' first
    | with_reducible assumption
    | with_reducible apply sequenceReleased_inside
    | with_reducible apply releaseReturned_inside
    | split

theorem followSense_inside {active : Bool} {d₀ d : Dev} (h : Inside d₀ d) : Inside d₀ (Dev.followSense active d) := by
  unfold Dev.followSense
  try dsimp only
  repeat' first
    | with_reducible assumption
    | with_reducible apply setDock_inside
    | split

theorem dockSense_inside {active : Bool} {d₀ d : Dev} (h : Inside d₀ d) : Inside d₀ (Dev.dockSense active d) := by
  unfold Dev.dockSense
  try dsimp only
  repeat' first
    | with_reducible assumption
    | with_reducible apply offerAll_inside
    | with_reducible apply onSc_inside
    | with_reducible apply followSense_inside
    | split

theorem senseRunReached_inside {d₀ d : Dev} (h : Inside d₀ d) : Inside d₀ (Dev.senseRunReached d) := by
  unfold Dev.senseRunReached
  try dsimp only
  repeat' first
    | with_reducible assumption
    | with_reducible apply freshDock_inside
    | with_reducible apply undock_inside
    | with_reducible apply setDock_inside
    | split

theorem bringupProbe_inside {d₀ d : Dev} (h : Inside d₀ d) : Inside d₀ (Dev.bringupProbe d) := by
  unfold Dev.bringupProbe
  try dsimp only
  repeat' first
    | with_reducible assumption
    | with_reducible apply undock_inside
    | with_reducible apply queueProbe1_inside
    | split

theorem noCradle_inside {d₀ d : Dev} (h : Inside d₀ d) : Inside d₀ (Dev.noCradle d) := by
  unfold Dev.noCradle
  try dsimp only
  repeat' first
    | with_reducible assumption
    | with_reducible apply undock_inside
    | with_reducible apply logFault_inside
    | with_reducible apply onSc_inside
    | split
    | with_reducible refine Inside.made ?_ rfl rfl rfl rfl rfl rfl rfl rfl rfl rfl rfl rfl

theorem holdTickDue_inside {d₀ d : Dev} (h : Inside d₀ d) : Inside d₀ (Dev.holdTickDue d) := by
  unfold Dev.holdTickDue
  try dsimp only
  repeat' first
    | with_reducible assumption
    | with_reducible apply undock_inside
    | with_reducible apply holdTick_inside
    | split

theorem holdOverExpiry_inside {d₀ d : Dev} (h : Inside d₀ d) : Inside d₀ (Dev.holdOverExpiry d) := by
  unfold Dev.holdOverExpiry
  try dsimp only
  repeat' first
    | with_reducible assumption
    | with_reducible apply undock_inside
    | split

theorem releasedTimerEnd_inside {d₀ d : Dev} (h : Inside d₀ d) : Inside d₀ (Dev.releasedTimerEnd d) := by
  unfold Dev.releasedTimerEnd
  try dsimp only
  repeat' first
    | with_reducible assumption
    | with_reducible apply freshDock_inside
    | split

theorem rederive_inside {k : Pos} {d₀ d : Dev} (h : Inside d₀ d) : Inside d₀ (Dev.rederive k d) := by
  unfold Dev.rederive
  try dsimp only
  repeat' first
    | with_reducible assumption
    | with_reducible apply startPush_inside
    | split

theorem attentionStale_inside {k : Pos} {d₀ d : Dev} (h : Inside d₀ d) : Inside d₀ (Dev.attentionStale k d) := by
  unfold Dev.attentionStale
  try dsimp only
  repeat' first
    | with_reducible assumption
    | with_reducible apply onIrPos_inside
    | with_reducible apply wantApplied_inside
    | split
    | with_reducible refine Inside.made ?_ rfl rfl rfl rfl rfl rfl rfl rfl rfl rfl rfl rfl

theorem lineDebounce_inside {n : Line} {d₀ d : Dev} (h : Inside d₀ d) : Inside d₀ (Dev.lineDebounce n d) := by
  unfold Dev.lineDebounce
  try dsimp only
  repeat' first
    | with_reducible assumption
    | with_reducible apply setStable_inside
    | with_reducible apply lineEffects_inside
    | with_reducible apply releasePress_inside
    | split

theorem contractTimeout_inside {d₀ d : Dev} (h : Inside d₀ d) : Inside d₀ (Dev.contractTimeout d) := by
  unfold Dev.contractTimeout
  try dsimp only
  repeat' first
    | with_reducible assumption
    | with_reducible apply logFault_inside
    | with_reducible apply refuseOffer_inside
    | split

theorem braceEnd_inside {d₀ d : Dev} (h : Inside d₀ d) : Inside d₀ (Dev.braceEnd d) := by
  unfold Dev.braceEnd
  try dsimp only
  repeat' first
    | with_reducible assumption
    | with_reducible apply onPcu_inside
    | split
    | with_reducible refine Inside.made ?_ rfl rfl rfl rfl rfl rfl rfl rfl rfl rfl rfl rfl

theorem goBack_inside {d₀ d : Dev} (h : Inside d₀ d) : Inside d₀ (Dev.goBack d) := by
  unfold Dev.goBack
  try dsimp only
  repeat' first
    | with_reducible assumption
    | with_reducible apply onPosting_inside
    | with_reducible apply emptyReady_inside
    | split
    | with_reducible refine Inside.made ?_ rfl rfl rfl rfl rfl rfl rfl rfl rfl rfl rfl rfl

theorem noProgress_inside {d₀ d : Dev} (h : Inside d₀ d) : Inside d₀ (Dev.noProgress d) := by
  unfold Dev.noProgress
  try dsimp only
  repeat' first
    | with_reducible assumption
    | with_reducible apply failPosting_inside
    | split

end Sys2Proof.Safety
end

