-- ==== Sys2Proof/Laws/Memory.lean ====
section
/-! SUPPORT. Host memory as the part writes it: a write keeps the canonical form, its bytes read back, every other byte reads as before. -/
namespace Sys2Proof.Laws

open Sys2Proof.Machine

theorem run_addr {a : Nat} {bs : List Byte} {c : Host.Cell} (h : c ∈ Mem.run a bs) : a ≤ c.1 ∧ c.1 < a + bs.length := by
  induction bs generalizing a with
  | nil => simp [Mem.run] at h
  | cons b bs ih =>
    simp only [Mem.run, List.mem_cons] at h
    rcases h with rfl | h
    · simp
    · have := ih h
      simp only [List.length_cons]; omega

theorem run_wf (a : Nat) (bs : List Byte) : Memory.wf (Mem.run a bs) := by
  induction bs generalizing a with
  | nil => simp [Mem.run, Memory.wf]
  | cons b bs ih =>
    simp only [Mem.run, Memory.wf, List.pairwise_cons]
    exact ⟨fun c hc => by have := (run_addr hc).1; show a < c.1; omega, ih (a + 1)⟩

/-- A write keeps the canonical form. -/
theorem write_wf {m : List Host.Cell} (h : Memory.wf m) (a : Nat) (bs : List Byte) : Memory.wf (Mem.write m a bs) := by
  unfold Mem.write Memory.wf
  rw [List.pairwise_append, List.pairwise_append]
  refine ⟨⟨h.filter _, run_wf a bs, ?_⟩, h.filter _, ?_⟩
  · intro x hx y hy
    have := (run_addr hy).1
    simp only [List.mem_filter, decide_eq_true_eq] at hx
    omega
  · intro x hx y hy
    simp only [List.mem_filter, decide_eq_true_eq] at hy
    rw [List.mem_append] at hx
    rcases hx with hx | hx
    · simp only [List.mem_filter, decide_eq_true_eq] at hx; omega
    · have := (run_addr hx).2; omega

theorem read_append (m n : List Host.Cell) (x : Nat) : Mem.read (m ++ n) x = (Mem.read m x).orElse fun _ => Mem.read n x := by
  induction m with
  | nil => rfl
  | cons c cs ih => simp only [List.cons_append, Mem.read]; split <;> simp [ih]

theorem read_none {m : List Host.Cell} {x : Nat} (h : ∀ c ∈ m, c.1 ≠ x) : Mem.read m x = none := by
  induction m with
  | nil => rfl
  | cons c cs ih =>
    simp only [Mem.read, if_neg (h c (by simp))]
    exact ih fun c hc => h c (by simp [hc])

theorem read_filter {m : List Host.Cell} {p : Host.Cell → Bool} {x : Nat} (h : ∀ b, p (x, b) = true) :
    Mem.read (m.filter p) x = Mem.read m x := by
  induction m with
  | nil => rfl
  | cons c cs ih =>
    obtain ⟨y, b⟩ := c
    by_cases hy : y = x
    · subst hy; simp [Mem.read, h]
    · rw [List.filter_cons]; split <;> simp [Mem.read, hy, ih]

theorem read_run (a : Nat) (bs : List Byte) (i : Nat) : Mem.read (Mem.run a bs) (a + i) = bs[i]? := by
  induction bs generalizing a i with
  | nil => rfl
  | cons b bs ih =>
    cases i with
    | zero => simp [Mem.run, Mem.read]
    | succ i =>
      have : a ≠ a + (i + 1) := by omega
      simp only [Mem.run, Mem.read, if_neg this, List.getElem?_cons_succ]
      have e : a + (i + 1) = a + 1 + i := by omega
      rw [e, ih]

/-- Outside the bytes written a read gives what it gave before. -/
theorem read_write_outside (m : List Host.Cell) {a x : Nat} {bs : List Byte} (h : x < a ∨ a + bs.length ≤ x) :
    Mem.read (Mem.write m a bs) x = Mem.read m x := by
  have hr : Mem.read (Mem.run a bs) x = none := read_none fun c hc => by have := run_addr hc; omega
  rw [Mem.write, read_append, read_append, hr]
  rcases h with h | h
  · rw [read_filter (x := x) (p := fun c => decide (c.1 < a)) (by intro b; simp; omega)]
    rw [read_none (m := m.filter fun c => decide (a + bs.length ≤ c.1)) fun c hc => by
      simp only [List.mem_filter, decide_eq_true_eq] at hc; omega]
    cases Mem.read m x <;> rfl
  · rw [read_filter (x := x) (p := fun c => decide (a + bs.length ≤ c.1)) (by intro b; simp; omega)]
    rw [read_none (m := m.filter fun c => decide (c.1 < a)) fun c hc => by
      simp only [List.mem_filter, decide_eq_true_eq] at hc; omega]
    rfl

/-- The bytes written read back. -/
theorem read_write_inside (m : List Host.Cell) {a i : Nat} {bs : List Byte} (h : i < bs.length) :
    Mem.read (Mem.write m a bs) (a + i) = some bs[i] := by
  rw [Mem.write, read_append, read_append, read_run]
  rw [read_none (m := m.filter fun c => decide (c.1 < a)) fun c hc => by
    simp only [List.mem_filter, decide_eq_true_eq] at hc; omega]
  simp [h]

end Sys2Proof.Laws
end

