-- ==== Sys2Proof/Laws/Kept.lean ====
section
/-! SUPPORT. What keeps the bounds of Safety.Inv: changes of other fields, folds, and the queue operations of R40 to R43. -/
namespace Sys2Proof.Safety

open Sys2Proof.Machine Sys2Proof.Laws

/-- A change that leaves the six bounded things as they are keeps the bounds. -/
theorem Inv.same {d d' : Dev} (h : Inv d) (hq : d'.le.queues = d.le.queues) (hs : d'.ic.staging = d.ic.staging)
    (hl : d'.cm.log.records = d.cm.log.records) (hp : d'.pub.slots = d.pub.slots)
    (hn : d'.dtu.serials = d.dtu.serials) (hm : d'.mem = d.mem) : Inv d' where
  queues k := by have := h.queues k; unfold Dev.queue at this ⊢; rwa [hq]
  staging := hs ▸ h.staging
  log := hl ▸ h.log
  slots := hp ▸ h.slots
  serials := hn ▸ h.serials
  memory := hm ▸ h.memory

/-- The same for a part written out field by field. -/
theorem Inv.made {xp : Xp} {pub : Pub} {le : Le} {cm : Cm} {sc : Sc} {ir : Ir} {ic : Ic} {dtu : Dtu} {pcu : Pcu} {slu : Slu}
    {pcie : Pcie} {mem : List Host.Cell} {free : Nat} {d : Dev} (h : Inv d) (hm : mem = d.mem)
    (hq : le.queues = d.le.queues) (hs : ic.staging = d.ic.staging) (hl : cm.log.records = d.cm.log.records)
    (hp : pub.slots = d.pub.slots) (hn : dtu.serials = d.dtu.serials) :
    Inv ⟨xp, pub, le, cm, sc, ir, ic, dtu, pcu, slu, pcie, mem, free⟩ := h.same hq hs hl hp hn hm

/-- New queues within the bounds. -/
theorem Inv.withQueues {d d' : Dev} (h : Inv d) (hq : ∀ k, QueueOk (d'.queue k)) (hs : d'.ic.staging = d.ic.staging)
    (hl : d'.cm.log.records = d.cm.log.records) (hp : d'.pub.slots = d.pub.slots)
    (hn : d'.dtu.serials = d.dtu.serials) (hm : d'.mem = d.mem) : Inv d' :=
  ⟨hq, hs ▸ h.staging, hl ▸ h.log, hp ▸ h.slots, hn ▸ h.serials, hm ▸ h.memory⟩

theorem Inv.foldl {α : Type} {l : List α} {f : Dev → α → Dev} {d : Dev} (h : Inv d) (hf : ∀ d a, Inv d → Inv (f d a)) :
    Inv (l.foldl f d) := by
  induction l generalizing d with
  | nil => exact h
  | cons a l ih => exact ih (hf d a h)

theorem Inv.cases {b : Prop} [Decidable b] {x y : Dev} (hx : Inv x) (hy : Inv y) : Inv (if b then x else y) := by
  split <;> assumption

theorem when_inv {b : Bool} {f : Dev → Dev} {d : Dev} (h : Inv d) (hf : Inv d → Inv (f d)) : Inv (Dev.when b f d) := by
  unfold Dev.when; split
  · exact hf h
  · exact h

/-! ### One block at a time -/

theorem onLe_inv {f : Le → Le} {d : Dev} (h : Inv d) (e : (f d.le).queues = d.le.queues) : Inv (d.onLe f) :=
  h.same e rfl rfl rfl rfl rfl

theorem onIc_inv {f : Ic → Ic} {d : Dev} (h : Inv d) (e : (f d.ic).staging = d.ic.staging) : Inv (d.onIc f) :=
  h.same rfl e rfl rfl rfl rfl

theorem onCm_inv {f : Cm → Cm} {d : Dev} (h : Inv d) (e : (f d.cm).log.records = d.cm.log.records) : Inv (d.onCm f) :=
  h.same rfl rfl e rfl rfl rfl

theorem onPub_inv {f : Pub → Pub} {d : Dev} (h : Inv d) (e : (f d.pub).slots = d.pub.slots) : Inv (d.onPub f) :=
  h.same rfl rfl rfl e rfl rfl

theorem onDtu_inv {f : Dtu → Dtu} {d : Dev} (h : Inv d) (e : (f d.dtu).serials = d.dtu.serials) : Inv (d.onDtu f) :=
  h.same rfl rfl rfl rfl e rfl

/-! ### Queues (R40, R43) -/

theorem QueueOk.nil : QueueOk [] := ⟨by simp, by simp [nonSession]⟩

/-- A queue no longer, with no more messages of the other kinds, stays within the bounds. -/
theorem QueueOk.sublist {q r : List Msg} (h : QueueOk q) (hr : r.Sublist q) : QueueOk r :=
  ⟨Nat.le_trans hr.length_le h.1, Nat.le_trans (hr.filter _).length_le h.2⟩

theorem QueueOk.filter {q : List Msg} (h : QueueOk q) (p : Msg → Bool) : QueueOk (q.filter p) :=
  h.sublist List.filter_sublist

theorem nonSession_map {q : List Msg} {f : Msg → Msg} (hf : ∀ m, (f m).payload = m.payload) :
    nonSession (q.map f) = nonSession q := by
  unfold nonSession
  induction q with
  | nil => rfl
  | cons m q ih => simp only [List.map_cons, List.filter_cons, hf]; split <;> simp [ih]

theorem QueueOk.map {q : List Msg} (h : QueueOk q) {f : Msg → Msg} (hf : ∀ m, (f m).payload = m.payload) :
    QueueOk (q.map f) := ⟨by simpa using h.1, by rw [nonSession_map hf]; exact h.2⟩

theorem QueueOk.filterMap {q : List Msg} (h : QueueOk q) {f : Msg → Option Msg}
    (hf : ∀ m n, f m = some n → n.payload = m.payload) : QueueOk (q.filterMap f) := by
  refine ⟨Nat.le_trans (List.length_filterMap_le _ _) h.1, Nat.le_trans ?_ h.2⟩
  clear h
  unfold nonSession
  induction q with
  | nil => simp
  | cons m q ih =>
    rw [List.filterMap_cons]
    cases hm : f m with
    | none => simp only [List.filter_cons]; split <;> (try simp only [List.length_cons]) <;> omega
    | some n => simp only [List.filter_cons, hf m n hm]; split <;> (try simp only [List.length_cons]) <;> omega

theorem QueueOk.append {q : List Msg} (h : QueueOk q) {m : Msg} (hf : queueFull q m = false) : QueueOk (q ++ [m]) := by
  obtain ⟨h1, h2⟩ := h
  unfold queueFull at hf
  unfold QueueOk nonSession at *
  rw [List.length_append, List.filter_append, List.length_append, List.filter_cons]
  cases hs : m.payload.isSession <;> simp [hs] at hf ⊢ <;> omega

theorem QueueOk.set {q : List Msg} (h : QueueOk q) {i : Nat} {m n : Msg} (hi : q[i]? = some m)
    (hp : n.payload = m.payload) : QueueOk (q.set i n) := by
  refine ⟨by simpa using h.1, Nat.le_trans (Nat.le_of_eq ?_) h.2⟩
  clear h
  unfold nonSession
  induction q generalizing i with
  | nil => simp
  | cons x q ih =>
    cases i with
    | zero =>
      simp only [List.getElem?_cons_zero, Option.some.injEq] at hi
      subst hi
      simp only [List.set_cons_zero, List.filter_cons, hp]; split <;> rfl
    | succ i =>
      simp only [List.set_cons_succ, List.filter_cons]
      have := ih (by simpa using hi)
      split <;> simp [this]

theorem setQueue_inv {k : Pos} {q : List Msg} {d : Dev} (h : Inv d) (hq : QueueOk q) : Inv (Dev.setQueue k q d) := by
  refine h.withQueues (fun j => ?_) rfl rfl rfl rfl rfl
  show QueueOk ((d.le.queues.set k q).get j)
  rw [Per6.get_set]; split
  · exact hq
  · exact h.queues j

theorem offerAll_inv {d : Dev} (h : Inv d) : Inv (Dev.offerAll d) := by
  rw [Dev.offerAll_eq]; exact h.same rfl rfl rfl rfl rfl rfl

/-- A message joins only where there is a place (R40). -/
theorem submit_inv {d : Dev} (h : Inv d) (k : Pos) (m : Msg) : Inv (d.submit k m).1 := by
  unfold Dev.submit
  split
  · exact h.same rfl rfl rfl rfl rfl rfl
  · split
    · exact h
    · next hf => exact setQueue_inv h ((h.queues k).append (by simpa using hf))

theorem submitted_inv {d d' : Dev} {k : Pos} {m : Msg} {r : Submitted} (h : Inv d) (e : d.submit k m = (d', r)) : Inv d' := by
  have := submit_inv h k m; rwa [e] at this

theorem addResult_inv {r : CtrlResult} {d : Dev} (h : Inv d) : Inv (Dev.addResult r d) := h.same rfl rfl rfl rfl rfl rfl

theorem keepOffer_inv {k : Pos} {o : OfferKind} {d : Dev} (h : Inv d) : Inv (Dev.keepOffer k o d) :=
  h.same rfl rfl rfl rfl rfl rfl

theorem modifyQueue_inv {k : Pos} {f : List Msg → List Msg} {d d' : Dev} (h : Inv d)
    (hq : d'.le.queues = d.le.queues.modify k f) (hf : QueueOk (f (d.queue k))) (hs : d'.ic.staging = d.ic.staging)
    (hl : d'.cm.log.records = d.cm.log.records) (hp : d'.pub.slots = d.pub.slots)
    (hn : d'.dtu.serials = d.dtu.serials) (hm : d'.mem = d.mem) : Inv d' := by
  refine h.withQueues (fun j => ?_) hs hl hp hn hm
  show QueueOk (d'.le.queues.get j)
  rw [hq, Per6.get_modify]; split
  · exact hf
  · exact h.queues j

theorem withdraw_inv {k : Pos} {p : Msg → Bool} {d : Dev} (h : Inv d) : Inv (Dev.withdraw k p d) :=
  modifyQueue_inv h rfl ((h.queues k).filter _) rfl rfl rfl rfl rfl

theorem withdrawUnsent_inv {k : Pos} {p : Msg → Bool} {d : Dev} (h : Inv d) : Inv (Dev.withdrawUnsent k p d) :=
  withdraw_inv h

theorem withdrawAfterFlight_inv {k : Pos} {p : Msg → Bool} {d : Dev} (h : Inv d) : Inv (Dev.withdrawAfterFlight k p d) := by
  have h' := withdraw_inv (k := k) (p := fun m => p m && !m.inFlight) h
  exact modifyQueue_inv h' rfl ((h'.queues k).map fun m => by split <;> rfl) rfl rfl rfl rfl rfl

theorem flush_inv {k : Pos} {d : Dev} (h : Inv d) : Inv (Dev.flush k d) := by
  refine h.withQueues (fun j => ?_) rfl rfl rfl rfl rfl
  show QueueOk ((d.le.queues.set k []).get j)
  rw [Per6.get_set]; split
  · exact QueueOk.nil
  · exact h.queues j

theorem thaw_inv {k : Pos} {d : Dev} (h : Inv d) : Inv (Dev.thaw k d) :=
  modifyQueue_inv h rfl ((h.queues k).map fun _ => rfl) rfl rfl rfl rfl rfl

theorem setInFlight_inv {k : Pos} {b : Bool} {f : Msg → Option Msg} {d : Dev} (h : Inv d)
    (hf : ∀ m n, f m = some n → n.payload = m.payload) : Inv (Dev.setInFlight k b f d) := by
  refine setQueue_inv h ((h.queues k).filterMap fun m n e => ?_)
  split at e
  · exact hf m n e
  · rw [← Option.some.inj e]

theorem sendMessage_inv {k : Pos} {i : Nat} {d : Dev} (h : Inv d) : Inv (Dev.sendMessage k i d) := by
  unfold Dev.sendMessage
  split
  · exact h
  · next m e =>
    have h' := setQueue_inv (k := k) h ((h.queues k).set (n := { m with tag := some (m.tag.getD (d.le.tags.get k)), inFlight := true }) e rfl)
    dsimp only
    split
    · exact h'.same rfl rfl rfl rfl rfl rfl
    · exact h'

/-! ### Staging, the log, sections, memory -/

/-- One item more while a place is free (R128). -/
theorem stage_inv {d d' : Dev} {i : Item} (h : Inv d) (hfree : d.ic.free ≠ 0) (hs : d'.ic.staging = d.ic.staging ++ [i])
    (hq : d'.le.queues = d.le.queues) (hl : d'.cm.log.records = d.cm.log.records) (hp : d'.pub.slots = d.pub.slots)
    (hn : d'.dtu.serials = d.dtu.serials) (hm : d'.mem = d.mem) : Inv d' := by
  refine ⟨fun k => ?_, ?_, hl ▸ h.log, hp ▸ h.slots, hn ▸ h.serials, hm ▸ h.memory⟩
  · have := h.queues k; unfold Dev.queue at this ⊢; rwa [hq]
  · have := h.staging
    unfold Ic.free at hfree
    rw [hs, List.length_append, List.length_singleton]; omega

theorem stageMarker_inv {k : ItemKind} {p : Byte} {x : W16} {d : Dev} (h : Inv d) : Inv (Dev.stageMarker k p x d) := by
  unfold Dev.stageMarker
  split
  · exact h.same rfl rfl rfl rfl rfl rfl
  · next hf => exact stage_inv h hf rfl rfl rfl rfl rfl rfl

theorem takeEntry_inv {k : Pos} {e : InputEntry} {d : Dev} (h : Inv d) : Inv (Dev.takeEntry k e d) := by
  unfold Dev.takeEntry
  dsimp only
  split
  · next hc => exact stage_inv h (by omega) rfl rfl rfl rfl rfl rfl
  · exact h

theorem logFault_inv {c : FaultCode} {pk : PlaceKind} {p : Byte} {b : Bool} {x : FaultCode} {d : Dev} (h : Inv d) :
    Inv (Dev.logFault c pk p b x d) where
  queues := h.queues
  staging := h.staging
  log := by
    have := h.log
    simp only [Dev.logFault]
    split <;> simp <;> omega
  slots := by simp only [Dev.logFault, List.length_set]; exact h.slots
  serials := h.serials
  memory := h.memory

theorem onSec_inv {i : SecId} {f : Sec → Sec} {d : Dev} (h : Inv d) : Inv (Dev.onSec i f d) where
  queues := h.queues
  staging := h.staging
  log := h.log
  slots := by
    have := h.slots
    cases i <;> simpa [Dev.onSec, Dev.onPub, Pub.onSec] using this
  serials := h.serials
  memory := h.memory

theorem writeWindow_inv {d : Dev} {o : Nat} {bs : List Byte} (h : Inv d) : Inv (d.writeWindow o bs) where
  queues := h.queues
  staging := h.staging
  log := h.log
  slots := h.slots
  serials := h.serials
  memory := write_wf h.memory _ _

/-- The reset part, with any host memory in canonical form. -/
theorem reset_inv {d : Dev} (hq : d.le.queues = Le.reset.queues) (hs : d.ic.staging = [])
    (hl : d.cm.log.records = []) (hp : d.pub.slots.length = 16) (hn : d.dtu.serials.length = 64)
    (hm : Memory.wf d.mem) : Inv d where
  queues k := by unfold Dev.queue; rw [hq]; cases k <;> exact QueueOk.nil
  staging := by simp [hs]
  log := by simp [hl]
  slots := hp
  serials := hn
  memory := hm

end Sys2Proof.Safety
end

