-- ==== Sys2Proof/Laws/KeptOps.lean ====
section
/-! SUPPORT. The bounds of Safety.Inv are kept by the shared operations, the Power Contract Unit, the Side Line Unit and the Intent Reconciler: one lemma per operation. -/
namespace Sys2Proof.Safety

open Sys2Proof.Machine Sys2Proof.Laws

theorem onXp_inv {f : Xp → Xp} {d : Dev} (h : Inv d) : Inv (Dev.onXp f d) :=
  h.same rfl rfl rfl rfl rfl rfl

theorem onSc_inv {f : Sc → Sc} {d : Dev} (h : Inv d) : Inv (Dev.onSc f d) :=
  h.same rfl rfl rfl rfl rfl rfl

theorem onIr_inv {f : Ir → Ir} {d : Dev} (h : Inv d) : Inv (Dev.onIr f d) :=
  h.same rfl rfl rfl rfl rfl rfl

theorem onPcu_inv {f : Pcu → Pcu} {d : Dev} (h : Inv d) : Inv (Dev.onPcu f d) :=
  h.same rfl rfl rfl rfl rfl rfl

theorem onSlu_inv {f : Slu → Slu} {d : Dev} (h : Inv d) : Inv (Dev.onSlu f d) :=
  h.same rfl rfl rfl rfl rfl rfl

theorem bumpBy_inv {c : Cause} {n : W32} {d : Dev} (h : Inv d) : Inv (Dev.bumpBy c n d) := by
  unfold Dev.bumpBy
  try dsimp only
  repeat' first
    | with_reducible assumption
    | split
    | with_reducible refine Inv.made ?_ rfl rfl rfl rfl rfl rfl

theorem bump_inv {c : Cause} {d : Dev} (h : Inv d) : Inv (Dev.bump c d) := by
  unfold Dev.bump
  try dsimp only
  repeat' first
    | with_reducible assumption
    | with_reducible apply bumpBy_inv

theorem setDock_inv {s : DockState} {d : Dev} (h : Inv d) : Inv (Dev.setDock s d) := by
  unfold Dev.setDock
  try dsimp only
  repeat' first
    | with_reducible assumption
    | with_reducible apply bump_inv
    | split
    | with_reducible refine Inv.made ?_ rfl rfl rfl rfl rfl rfl

theorem onEntry_inv {k : Pos} {f : Entry → Entry} {d : Dev} (h : Inv d) : Inv (Dev.onEntry k f d) :=
  h.same rfl rfl rfl rfl rfl rfl

theorem onSeg_inv {k : Pos} {f : SegRecord → SegRecord} {d : Dev} (h : Inv d) : Inv (Dev.onSeg k f d) :=
  h.same rfl rfl rfl rfl rfl rfl

theorem send_inv {k : Pos} {sub : Block} {payload : Payload} {d : Dev} (h : Inv d) : Inv (Dev.send k sub payload d) := by
  unfold Dev.send
  split <;> next e => first | exact keepOffer_inv (submitted_inv h e) | exact submitted_inv h e

theorem schedule_inv {k : Pos} {d : Dev} (h : Inv d) : Inv (Dev.schedule k d) :=
  h.same rfl rfl rfl rfl rfl rfl

theorem unschedule_inv {k : Pos} {d : Dev} (h : Inv d) : Inv (Dev.unschedule k d) :=
  h.same rfl rfl rfl rfl rfl rfl

theorem releaseAll_inv {k : Pos} {d : Dev} (h : Inv d) : Inv (Dev.releaseAll k d) := by
  unfold Dev.releaseAll
  try dsimp only
  repeat' first
    | with_reducible assumption
    | with_reducible apply stageMarker_inv
    | split
    | with_reducible refine Inv.made ?_ rfl rfl rfl rfl rfl rfl

theorem closeInput_inv {k : Pos} {d : Dev} (h : Inv d) : Inv (Dev.closeInput k d) := by
  unfold Dev.closeInput
  try dsimp only
  repeat' first
    | with_reducible assumption
    | with_reducible apply releaseAll_inv
    | with_reducible refine Inv.made ?_ rfl rfl rfl rfl rfl rfl

theorem openInput_inv {k : Pos} {d : Dev} (h : Inv d) : Inv (Dev.openInput k d) := by
  unfold Dev.openInput
  try dsimp only
  repeat' first
    | with_reducible assumption
    | with_reducible apply releaseAll_inv
    | with_reducible refine Inv.made ?_ rfl rfl rfl rfl rfl rfl

theorem wantApplied_inv {k : Pos} {d : Dev} (h : Inv d) : Inv (Dev.wantApplied k d) :=
  h.same rfl rfl rfl rfl rfl rfl

theorem onIrPos_inv {k : Pos} {f : IrPos → IrPos} {d : Dev} (h : Inv d) : Inv (Dev.onIrPos k f d) :=
  h.same rfl rfl rfl rfl rfl rfl

theorem checkDegraded_inv {k : Pos} {d : Dev} (h : Inv d) : Inv (Dev.checkDegraded k d) := by
  unfold Dev.checkDegraded
  try dsimp only
  repeat' first
    | with_reducible assumption
    | with_reducible apply bump_inv
    | split
    | with_reducible refine Inv.made ?_ rfl rfl rfl rfl rfl rfl

theorem setThreshold_inv {t : W16} {d : Dev} (h : Inv d) : Inv (Dev.setThreshold t d) := by
  unfold Dev.setThreshold
  try dsimp only
  repeat' first
    | with_reducible assumption
    | with_reducible apply checkDegraded_inv
    | with_reducible refine Inv.foldl ?_ (fun _ _ _ => ?_)
    | split
    | with_reducible refine Inv.made ?_ rfl rfl rfl rfl rfl rfl

theorem withdrawSupply_inv {d : Dev} (h : Inv d) : Inv (Dev.withdrawSupply d) := by
  unfold Dev.withdrawSupply
  try dsimp only
  repeat' first
    | with_reducible assumption
    | with_reducible apply withdrawUnsent_inv
    | with_reducible refine Inv.made ?_ rfl rfl rfl rfl rfl rfl

theorem dropSupply_inv {d : Dev} (h : Inv d) : Inv (Dev.dropSupply d) := by
  unfold Dev.dropSupply
  try dsimp only
  repeat' first
    | with_reducible assumption
    | with_reducible apply withdraw_inv
    | with_reducible refine Inv.made ?_ rfl rfl rfl rfl rfl rfl

theorem queueSupply_inv {d : Dev} (h : Inv d) : Inv (Dev.queueSupply d) := by
  unfold Dev.queueSupply
  split
  · exact h
  · split <;> next e => first | exact keepOffer_inv (submitted_inv h e) | exact submitted_inv h e

theorem setContract_inv {c : ContractState} {offer : Option Byte} {mismatch : Bool} {d : Dev} (h : Inv d) : Inv (Dev.setContract c offer mismatch d) := by
  unfold Dev.setContract
  try dsimp only
  repeat' first
    | with_reducible assumption
    | with_reducible apply bump_inv
    | split
    | with_reducible refine Inv.made ?_ rfl rfl rfl rfl rfl rfl

theorem enterBase_inv {d : Dev} (h : Inv d) : Inv (Dev.enterBase d) := by
  unfold Dev.enterBase
  try dsimp only
  repeat' first
    | with_reducible assumption
    | with_reducible apply setContract_inv
    | with_reducible apply queueSupply_inv
    | split
    | with_reducible refine Inv.made ?_ rfl rfl rfl rfl rfl rfl

theorem requestOffer_inv {i : Nat} {o : Offer} {d : Dev} (h : Inv d) : Inv (Dev.requestOffer i o d) := by
  unfold Dev.requestOffer
  try dsimp only
  repeat' first
    | with_reducible assumption
    | with_reducible apply setContract_inv
    | with_reducible apply queueSupply_inv

theorem select_inv {d : Dev} (h : Inv d) : Inv (Dev.select d) := by
  unfold Dev.select
  try dsimp only
  repeat' first
    | with_reducible assumption
    | with_reducible apply onPcu_inv
    | with_reducible apply withdrawSupply_inv
    | with_reducible apply requestOffer_inv
    | with_reducible apply enterBase_inv
    | split
    | with_reducible refine Inv.made ?_ rfl rfl rfl rfl rfl rfl

theorem supplyCause_inv {d : Dev} (h : Inv d) : Inv (Dev.supplyCause d) := by
  unfold Dev.supplyCause
  try dsimp only
  repeat' first
    | with_reducible assumption
    | with_reducible apply select_inv
    | split
    | with_reducible refine Inv.made ?_ rfl rfl rfl rfl rfl rfl

theorem contractNone_inv {d : Dev} (h : Inv d) : Inv (Dev.contractNone d) := by
  unfold Dev.contractNone
  try dsimp only
  repeat' first
    | with_reducible assumption
    | with_reducible apply setContract_inv
    | with_reducible apply dropSupply_inv
    | with_reducible refine Inv.made ?_ rfl rfl rfl rfl rfl rfl

theorem refuseOffer_inv {d : Dev} (h : Inv d) : Inv (Dev.refuseOffer d) := by
  unfold Dev.refuseOffer
  try dsimp only
  repeat' first
    | with_reducible assumption
    | with_reducible apply select_inv
    | split
    | with_reducible refine Inv.made ?_ rfl rfl rfl rfl rfl rfl

theorem contractResult_inv {code : ResultCode} {d : Dev} (h : Inv d) : Inv (Dev.contractResult code d) := by
  unfold Dev.contractResult
  try dsimp only
  repeat' first
    | with_reducible assumption
    | with_reducible apply setContract_inv
    | with_reducible apply onPcu_inv
    | with_reducible apply refuseOffer_inv
    | with_reducible apply queueSupply_inv
    | with_reducible apply select_inv
    | split
    | with_reducible refine Inv.made ?_ rfl rfl rfl rfl rfl rfl

theorem runOwed_inv {d : Dev} (h : Inv d) : Inv (Dev.runOwed d) := by
  unfold Dev.runOwed
  try dsimp only
  repeat' first
    | with_reducible assumption
    | with_reducible apply select_inv
    | split

theorem baseResult_inv {code : ResultCode} {d : Dev} (h : Inv d) : Inv (Dev.baseResult code d) := by
  unfold Dev.baseResult
  try dsimp only
  repeat' first
    | with_reducible assumption
    | with_reducible apply onPcu_inv
    | with_reducible apply runOwed_inv
    | with_reducible apply select_inv
    | with_reducible apply queueSupply_inv
    | split
    | with_reducible refine Inv.made ?_ rfl rfl rfl rfl rfl rfl

theorem supplyReport_inv {d : Dev} (h : Inv d) : Inv (Dev.supplyReport d) := by
  unfold Dev.supplyReport
  try dsimp only
  repeat' first
    | with_reducible assumption
    | with_reducible apply setContract_inv
    | with_reducible apply select_inv
    | split

theorem enabledChanged_inv {d : Dev} (h : Inv d) : Inv (Dev.enabledChanged d) := by
  unfold Dev.enabledChanged
  try dsimp only
  repeat' first
    | with_reducible assumption
    | with_reducible apply supplyCause_inv
    | split

theorem checkUnsent_inv {d : Dev} (h : Inv d) : Inv (Dev.checkUnsent d) := by
  unfold Dev.checkUnsent
  try dsimp only
  repeat' first
    | with_reducible assumption
    | with_reducible apply select_inv
    | split

theorem braceCheck_inv {d : Dev} (h : Inv d) : Inv (Dev.braceCheck d) := by
  unfold Dev.braceCheck
  try dsimp only
  repeat' first
    | with_reducible assumption
    | split
    | with_reducible refine Inv.made ?_ rfl rfl rfl rfl rfl rfl

theorem takeSupply_inv {f : CradleFields} {d : Dev} (h : Inv d) : Inv (Dev.takeSupply f d) := by
  unfold Dev.takeSupply
  try dsimp only
  repeat' first
    | with_reducible assumption
    | with_reducible apply supplyReport_inv
    | with_reducible apply enabledChanged_inv
    | with_reducible apply checkUnsent_inv
    | with_reducible apply braceCheck_inv
    | split
    | with_reducible refine Inv.made ?_ rfl rfl rfl rfl rfl rfl

theorem allocate_inv {d : Dev} (h : Inv d) : Inv (Dev.allocate d) := by
  unfold Dev.allocate
  try dsimp only
  repeat' first
    | with_reducible assumption
    | with_reducible apply logFault_inv
    | split
    | with_reducible refine Inv.made ?_ rfl rfl rfl rfl rfl rfl

theorem sendBlock_inv {k : Pos} {d : Dev} (h : Inv d) : Inv (Dev.sendBlock k d) := by
  unfold Dev.sendBlock
  split
  · exact submit_inv h _ _
  · exact h

theorem queueBlock_inv {k : Pos} {d : Dev} (h : Inv d) : Inv (Dev.queueBlock k d) := by
  unfold Dev.queueBlock
  split <;> next e => first | exact keepOffer_inv (submitted_inv h e) | exact submitted_inv h e

theorem resendBlock_inv {k : Pos} {d : Dev} (h : Inv d) : Inv (Dev.resendBlock k d) := by
  unfold Dev.resendBlock
  split
  · exact queueBlock_inv h
  · exact h

theorem withdrawBlock_inv {k : Pos} {d : Dev} (h : Inv d) : Inv (Dev.withdrawBlock k d) := by
  unfold Dev.withdrawBlock
  try dsimp only
  repeat' first
    | with_reducible assumption
    | with_reducible apply withdrawUnsent_inv
    | with_reducible refine Inv.made ?_ rfl rfl rfl rfl rfl rfl

theorem forgetBlock_inv {k : Pos} {d : Dev} (h : Inv d) : Inv (Dev.forgetBlock k d) :=
  h.same rfl rfl rfl rfl rfl rfl

theorem leaveBlock_inv {k : Pos} {d : Dev} (h : Inv d) : Inv (Dev.leaveBlock k d) :=
  forgetBlock_inv (withdrawBlock_inv h)

theorem onLine_inv {n : Line} {f : LineState → LineState} {d : Dev} (h : Inv d) : Inv (Dev.onLine n f d) :=
  h.same rfl rfl rfl rfl rfl rfl

theorem setStable_inv {n : Line} {v : StableLevel} {d : Dev} (h : Inv d) : Inv (Dev.setStable n v d) := by
  unfold Dev.setStable
  try dsimp only
  repeat' first
    | with_reducible assumption
    | with_reducible apply onLine_inv
    | with_reducible apply bump_inv
    | split
    | with_reducible refine Inv.made ?_ rfl rfl rfl rfl rfl rfl

theorem settleLine_inv {n : Line} {d : Dev} (h : Inv d) : Inv (Dev.settleLine n d) := by
  unfold Dev.settleLine
  try dsimp only
  repeat' first
    | with_reducible assumption
    | with_reducible apply setStable_inv
    | with_reducible apply onLine_inv
    | split
    | with_reducible refine Inv.made ?_ rfl rfl rfl rfl rfl rfl

theorem lineEffects_inv {d : Dev} (h : Inv d) : Inv (Dev.lineEffects d) := by
  unfold Dev.lineEffects
  try dsimp only
  repeat' first
    | with_reducible assumption
    | with_reducible apply braceCheck_inv
    | with_reducible refine Inv.made ?_ rfl rfl rfl rfl rfl rfl

theorem settleLines_inv {d : Dev} (h : Inv d) : Inv (Dev.settleLines d) := by
  unfold Dev.settleLines
  try dsimp only
  repeat' first
    | with_reducible assumption
    | with_reducible apply settleLine_inv
    | with_reducible apply lineEffects_inv
    | with_reducible refine Inv.foldl ?_ (fun _ _ _ => ?_)

theorem placeLines_inv {d : Dev} (h : Inv d) : Inv (Dev.placeLines d) := by
  unfold Dev.placeLines
  try dsimp only
  repeat' first
    | with_reducible assumption
    | with_reducible apply onLine_inv
    | with_reducible apply settleLines_inv
    | with_reducible refine Inv.foldl ?_ (fun _ _ _ => ?_)
    | with_reducible refine Inv.made ?_ rfl rfl rfl rfl rfl rfl

theorem takeLevels_inv {levels : Byte} {d : Dev} (h : Inv d) : Inv (Dev.takeLevels levels d) := by
  unfold Dev.takeLevels
  try dsimp only
  repeat' first
    | with_reducible assumption
    | with_reducible apply onLine_inv
    | with_reducible refine Inv.foldl ?_ (fun _ _ _ => ?_)
    | split

theorem sendLines_inv {d : Dev} (h : Inv d) : Inv (Dev.sendLines d) := by
  unfold Dev.sendLines
  dsimp only
  split
  · exact submit_inv h _ _
  · exact h

theorem confirmLines_inv {items : List SetItem} {known : Bool} {d : Dev} (h : Inv d) : Inv (Dev.confirmLines items known d) := by
  unfold Dev.confirmLines
  try dsimp only
  repeat' first
    | with_reducible assumption
    | with_reducible apply onLine_inv
    | with_reducible refine Inv.foldl ?_ (fun _ _ _ => ?_)
    | split

theorem refuseLines_inv {items : List SetItem} {d : Dev} (h : Inv d) : Inv (Dev.refuseLines items d) := by
  unfold Dev.refuseLines
  try dsimp only
  repeat' first
    | with_reducible assumption
    | with_reducible apply onLine_inv
    | with_reducible refine Inv.foldl ?_ (fun _ _ _ => ?_)
    | split
    | with_reducible refine Inv.made ?_ rfl rfl rfl rfl rfl rfl

theorem linesResult_inv {items : List SetItem} {code : ResultCode} {d : Dev} (h : Inv d) : Inv (Dev.linesResult items code d) := by
  unfold Dev.linesResult
  try dsimp only
  repeat' first
    | with_reducible assumption
    | with_reducible apply confirmLines_inv
    | with_reducible apply refuseLines_inv
    | with_reducible apply settleLines_inv
    | split

theorem forgetLines_inv {d : Dev} (h : Inv d) : Inv (Dev.forgetLines d) := by
  unfold Dev.forgetLines
  try dsimp only
  repeat' first
    | with_reducible assumption
    | with_reducible apply onLine_inv
    | with_reducible apply settleLines_inv
    | with_reducible refine Inv.foldl ?_ (fun _ _ _ => ?_)
    | with_reducible refine Inv.made ?_ rfl rfl rfl rfl rfl rfl

theorem suspendLines_inv {d : Dev} (h : Inv d) : Inv (Dev.suspendLines d) := by
  unfold Dev.suspendLines
  try dsimp only
  repeat' first
    | with_reducible assumption
    | with_reducible apply withdrawUnsent_inv
    | with_reducible apply confirmLines_inv
    | with_reducible apply settleLines_inv
    | with_reducible refine Inv.foldl ?_ (fun _ _ _ => ?_)
    | split

theorem releaseLines_inv {d : Dev} (h : Inv d) : Inv (Dev.releaseLines d) := by
  unfold Dev.releaseLines
  try dsimp only
  repeat' first
    | with_reducible assumption
    | with_reducible apply setStable_inv
    | with_reducible apply onLine_inv
    | with_reducible apply placeLines_inv
    | with_reducible refine Inv.foldl ?_ (fun _ _ _ => ?_)
    | with_reducible refine Inv.made ?_ rfl rfl rfl rfl rfl rfl

theorem onShadow_inv {k : Pos} {f : Shadow → Shadow} {d : Dev} (h : Inv d) : Inv (Dev.onShadow k f d) := by
  unfold Dev.onShadow
  try dsimp only
  repeat' first
    | with_reducible assumption
    | with_reducible apply onIrPos_inv
    | with_reducible refine Inv.made ?_ rfl rfl rfl rfl rfl rfl

theorem learnShadow_inv {k : Pos} {f : Shadow → Shadow} {d : Dev} (h : Inv d) : Inv (Dev.learnShadow k f d) := by
  unfold Dev.learnShadow
  try dsimp only
  repeat' first
    | with_reducible assumption
    | with_reducible apply onShadow_inv
    | split

theorem endPush_inv {k : Pos} {p : Push} {result : AppliedResult} {blocked : Option (List SetItem)} {d : Dev} (h : Inv d) : Inv (Dev.endPush k p result blocked d) := by
  unfold Dev.endPush
  try dsimp only
  repeat' first
    | with_reducible assumption
    | with_reducible apply onIrPos_inv
    | with_reducible apply wantApplied_inv
    | split
    | with_reducible refine Inv.made ?_ rfl rfl rfl rfl rfl rfl

theorem soundAttention_inv {k : Pos} {items : List SetItem} {d : Dev} (h : Inv d) : Inv (Dev.soundAttention k items d) := by
  unfold Dev.soundAttention
  try dsimp only
  repeat' first
    | with_reducible assumption
    | with_reducible apply onIrPos_inv
    | split
    | with_reducible refine Inv.made ?_ rfl rfl rfl rfl rfl rfl

theorem pushStep_inv {k : Pos} {d : Dev} (h : Inv d) : Inv (Dev.pushStep k d) := by
  unfold Dev.pushStep
  split
  · exact h
  · split
    · exact h
    · split
      · exact endPush_inv h
      · dsimp only
        split <;> next e => first
          | exact soundAttention_inv (submitted_inv h e)
          | exact keepOffer_inv (submitted_inv h e)
          | exact submitted_inv h e

theorem startPush_inv {k : Pos} {gen : W32} {first : Bool} {d : Dev} (h : Inv d) : Inv (Dev.startPush k gen first d) := by
  unfold Dev.startPush
  try dsimp only
  repeat' first
    | with_reducible assumption
    | with_reducible apply onIrPos_inv
    | with_reducible apply pushStep_inv
    | with_reducible refine Inv.made ?_ rfl rfl rfl rfl rfl rfl

theorem suspendPush_inv {k : Pos} {d : Dev} (h : Inv d) : Inv (Dev.suspendPush k d) := by
  unfold Dev.suspendPush
  try dsimp only
  repeat' first
    | with_reducible assumption
    | with_reducible apply withdrawAfterFlight_inv
    | with_reducible apply learnShadow_inv
    | with_reducible apply onIrPos_inv
    | with_reducible refine Inv.foldl ?_ (fun _ _ _ => ?_)
    | split
    | with_reducible refine Inv.made ?_ rfl rfl rfl rfl rfl rfl

theorem releaseSettings_inv {k : Pos} {d : Dev} (h : Inv d) : Inv (Dev.releaseSettings k d) := by
  unfold Dev.releaseSettings
  try dsimp only
  repeat' first
    | with_reducible assumption
    | with_reducible apply onIrPos_inv
    | with_reducible apply wantApplied_inv
    | with_reducible refine Inv.made ?_ rfl rfl rfl rfl rfl rfl

theorem resetSettings_inv {k : Pos} {d : Dev} (h : Inv d) : Inv (Dev.resetSettings k d) := by
  unfold Dev.resetSettings
  try dsimp only
  repeat' first
    | with_reducible assumption
    | with_reducible apply onIrPos_inv
    | with_reducible apply wantApplied_inv
    | with_reducible refine Inv.made ?_ rfl rfl rfl rfl rfl rfl

theorem abandonPushes_inv {d : Dev} (h : Inv d) : Inv (Dev.abandonPushes d) := by
  unfold Dev.abandonPushes
  try dsimp only
  repeat' first
    | with_reducible assumption
    | with_reducible apply onIrPos_inv
    | with_reducible refine Inv.foldl ?_ (fun _ _ _ => ?_)
    | with_reducible refine Inv.made ?_ rfl rfl rfl rfl rfl rfl

theorem settingResult_inv {k : Pos} {items : List SetItem} {code : ResultCode} {d : Dev} (h : Inv d) : Inv (Dev.settingResult k items code d) := by
  unfold Dev.settingResult
  try dsimp only
  repeat' first
    | with_reducible assumption
    | with_reducible apply endPush_inv
    | with_reducible apply learnShadow_inv
    | with_reducible apply pushStep_inv
    | with_reducible apply onIrPos_inv
    | split
    | with_reducible refine Inv.made ?_ rfl rfl rfl rfl rfl rfl

end Sys2Proof.Safety
end

