-- ==== Sys2Proof/Laws/KeptTable.lean ====
section
/-! SUPPORT. The bounds of Safety.Inv are kept by tiles, the node table and diagnosis: one lemma per operation. -/
namespace Sys2Proof.Safety

open Sys2Proof.Machine Sys2Proof.Laws

theorem onPosting_inv {f : Posting → Posting} {d : Dev} (h : Inv d) : Inv (Dev.onPosting f d) :=
  h.same rfl rfl rfl rfl rfl rfl

theorem emptyReady_inv {d : Dev} (h : Inv d) : Inv (Dev.emptyReady d) := by
  unfold Dev.emptyReady
  try dsimp only
  repeat' first
    | with_reducible assumption
    | with_reducible apply onPosting_inv
    | with_reducible refine onDtu_inv ?_ rfl
    | with_reducible refine Inv.made ?_ rfl rfl rfl rfl rfl rfl

theorem beginBatch_inv {b : Nat} {d : Dev} (h : Inv d) : Inv (Dev.beginBatch b d) := by
  unfold Dev.beginBatch
  try dsimp only
  repeat' first
    | with_reducible assumption
    | split
    | with_reducible refine Inv.made ?_ rfl rfl rfl rfl rfl rfl

theorem restartBatch_inv {d : Dev} (h : Inv d) : Inv (Dev.restartBatch d) := by
  unfold Dev.restartBatch
  try dsimp only
  repeat' first
    | with_reducible assumption
    | with_reducible apply beginBatch_inv
    | split

theorem endPosting_inv {outcome : UpdateOutcome} {reason : UpdateReason} {d : Dev} (h : Inv d) : Inv (Dev.endPosting outcome reason d) := by
  unfold Dev.endPosting
  try dsimp only
  repeat' first
    | with_reducible assumption
    | with_reducible apply onEntry_inv
    | split
    | with_reducible refine Inv.made ?_ rfl rfl rfl rfl rfl rfl

theorem queueDiscard_inv {k : Pos} {d : Dev} (h : Inv d) : Inv (Dev.queueDiscard k d) := by
  unfold Dev.queueDiscard
  try dsimp only
  repeat' first
    | with_reducible assumption
    | with_reducible apply send_inv

theorem failPosting_inv {reason : UpdateReason} {d : Dev} (h : Inv d) : Inv (Dev.failPosting reason d) := by
  unfold Dev.failPosting
  try dsimp only
  repeat' first
    | with_reducible assumption
    | with_reducible apply endPosting_inv
    | with_reducible apply queueDiscard_inv
    | split

theorem endCommit_inv {stagingEmpty : Bool} {d : Dev} (h : Inv d) : Inv (Dev.endCommit stagingEmpty d) := by
  unfold Dev.endCommit
  try dsimp only
  repeat' first
    | with_reducible assumption
    | with_reducible apply withdraw_inv
    | with_reducible apply onPosting_inv
    | with_reducible apply endPosting_inv
    | with_reducible apply beginBatch_inv
    | with_reducible apply queueDiscard_inv
    | split
    | with_reducible refine Inv.made ?_ rfl rfl rfl rfl rfl rfl

theorem enterCommitting_inv {d : Dev} (h : Inv d) : Inv (Dev.enterCommitting d) := by
  unfold Dev.enterCommitting
  try dsimp only
  repeat' first
    | with_reducible assumption
    | with_reducible apply onPosting_inv
    | with_reducible apply send_inv
    | split
    | with_reducible refine Inv.made ?_ rfl rfl rfl rfl rfl rfl

theorem takeReceived_inv {r : Nat} {d : Dev} (h : Inv d) : Inv (Dev.takeReceived r d) := by
  unfold Dev.takeReceived
  try dsimp only
  repeat' first
    | with_reducible assumption
    | with_reducible apply restartBatch_inv
    | with_reducible apply onPosting_inv
    | with_reducible apply enterCommitting_inv
    | split
    | with_reducible refine Inv.made ?_ rfl rfl rfl rfl rfl rfl

theorem takeDisplay_inv {k : Pos} {f : DisplayFields} {d : Dev} (h : Inv d) : Inv (Dev.takeDisplay k f d) := by
  unfold Dev.takeDisplay
  try dsimp only
  repeat' first
    | with_reducible assumption
    | with_reducible apply onPosting_inv
    | with_reducible apply queueDiscard_inv
    | with_reducible apply takeReceived_inv
    | with_reducible apply endCommit_inv
    | with_reducible apply restartBatch_inv
    | split
    | with_reducible refine Inv.made ?_ rfl rfl rfl rfl rfl rfl

theorem commitResult_inv {k : Pos} {tag : Byte} {code : ResultCode} {d : Dev} (h : Inv d) : Inv (Dev.commitResult k tag code d) := by
  unfold Dev.commitResult
  try dsimp only
  repeat' first
    | with_reducible assumption
    | with_reducible apply failPosting_inv
    | with_reducible apply noProgress_inv
    | with_reducible apply onPosting_inv
    | with_reducible apply restartBatch_inv
    | with_reducible apply send_inv
    | split
    | with_reducible refine Inv.made ?_ rfl rfl rfl rfl rfl rfl

theorem waitPosting_inv {k : Pos} {d : Dev} (h : Inv d) : Inv (Dev.waitPosting k d) := by
  unfold Dev.waitPosting
  try dsimp only
  repeat' first
    | with_reducible assumption
    | with_reducible apply onPosting_inv
    | with_reducible apply emptyReady_inv
    | with_reducible apply withdrawUnsent_inv
    | split
    | with_reducible refine Inv.made ?_ rfl rfl rfl rfl rfl rfl

theorem resumePosting_inv {k : Pos} {d : Dev} (h : Inv d) : Inv (Dev.resumePosting k d) := by
  unfold Dev.resumePosting
  try dsimp only
  repeat' first
    | with_reducible assumption
    | with_reducible apply onPosting_inv
    | with_reducible apply restartBatch_inv
    | split
    | with_reducible refine Inv.made ?_ rfl rfl rfl rfl rfl rfl

theorem returnPosting_inv {k : Pos} {d : Dev} (h : Inv d) : Inv (Dev.returnPosting k d) := by
  unfold Dev.returnPosting
  try dsimp only
  repeat' first
    | with_reducible assumption
    | with_reducible apply waitPosting_inv
    | with_reducible apply onPosting_inv
    | split
    | with_reducible refine Inv.made ?_ rfl rfl rfl rfl rfl rfl

theorem stopPosting_inv {k : Pos} {d : Dev} (h : Inv d) : Inv (Dev.stopPosting k d) := by
  unfold Dev.stopPosting
  try dsimp only
  repeat' first
    | with_reducible assumption
    | with_reducible apply onPosting_inv
    | with_reducible apply emptyReady_inv
    | split
    | with_reducible refine Inv.made ?_ rfl rfl rfl rfl rfl rfl

theorem releasePosting_inv {k : Pos} {d : Dev} (h : Inv d) : Inv (Dev.releasePosting k d) := by
  unfold Dev.releasePosting
  try dsimp only
  repeat' first
    | with_reducible assumption
    | with_reducible apply endPosting_inv
    | split

theorem revalidatePosting_inv {k : Pos} {d : Dev} (h : Inv d) : Inv (Dev.revalidatePosting k d) := by
  unfold Dev.revalidatePosting
  try dsimp only
  repeat' first
    | with_reducible assumption
    | with_reducible apply endPosting_inv
    | with_reducible apply restartBatch_inv
    | split

theorem targetFailed_inv {k : Pos} {d : Dev} (h : Inv d) : Inv (Dev.targetFailed k d) := by
  unfold Dev.targetFailed
  try dsimp only
  repeat' first
    | with_reducible assumption
    | with_reducible apply endPosting_inv
    | split

theorem setDiscovery_inv {s : Discovery} {d : Dev} (h : Inv d) : Inv (Dev.setDiscovery s d) :=
  h.same rfl rfl rfl rfl rfl rfl

theorem enterWaiting_inv {d : Dev} (h : Inv d) : Inv (Dev.enterWaiting d) :=
  h.same rfl rfl rfl rfl rfl rfl

theorem abandonLocate_inv {d : Dev} (h : Inv d) : Inv (Dev.abandonLocate d) := by
  unfold Dev.abandonLocate
  try dsimp only
  repeat' first
    | with_reducible assumption
    | split
    | with_reducible refine Inv.made ?_ rfl rfl rfl rfl rfl rfl

theorem overtakeLocate_inv {d : Dev} (h : Inv d) : Inv (Dev.overtakeLocate d) := by
  unfold Dev.overtakeLocate
  try dsimp only
  repeat' first
    | with_reducible assumption
    | with_reducible apply abandonLocate_inv
    | with_reducible apply enterWaiting_inv
    | split

theorem stopDiscovery_inv {d : Dev} (h : Inv d) : Inv (Dev.stopDiscovery d) := by
  unfold Dev.stopDiscovery
  try dsimp only
  repeat' first
    | with_reducible assumption
    | with_reducible apply abandonLocate_inv
    | with_reducible refine Inv.made ?_ rfl rfl rfl rfl rfl rfl

theorem enterComplete_inv {recheck : Bool} {d : Dev} (h : Inv d) : Inv (Dev.enterComplete recheck d) :=
  h.same rfl rfl rfl rfl rfl rfl

theorem enterFaulted_inv {d : Dev} (h : Inv d) : Inv (Dev.enterFaulted d) := by
  unfold Dev.enterFaulted
  try dsimp only
  repeat' first
    | with_reducible assumption
    | split
    | with_reducible refine Inv.made ?_ rfl rfl rfl rfl rfl rfl

theorem setSegState_inv {k : Pos} {s : SegState} {d : Dev} (h : Inv d) : Inv (Dev.setSegState k s d) := by
  unfold Dev.setSegState
  try dsimp only
  repeat' first
    | with_reducible assumption
    | with_reducible apply onEntry_inv
    | with_reducible refine Inv.made ?_ rfl rfl rfl rfl rfl rfl

theorem sendSegment_inv {k : Pos} {s : SegSetting} {use : SegUse} {d : Dev} (h : Inv d) : Inv (Dev.sendSegment k s use d) := by
  unfold Dev.sendSegment
  try dsimp only
  repeat' first
    | with_reducible assumption
    | with_reducible apply send_inv

theorem queueProbe1_inv {d : Dev} (h : Inv d) : Inv (Dev.queueProbe1 d) := by
  unfold Dev.queueProbe1
  try dsimp only
  repeat' first
    | with_reducible assumption
    | with_reducible apply send_inv
    | with_reducible apply onSc_inv
    | with_reducible refine Inv.made ?_ rfl rfl rfl rfl rfl rfl

theorem freshDock_inv {d : Dev} (h : Inv d) : Inv (Dev.freshDock d) := by
  unfold Dev.freshDock
  try dsimp only
  repeat' first
    | with_reducible assumption
    | with_reducible apply setDock_inv
    | with_reducible apply queueProbe1_inv
    | with_reducible refine Inv.made ?_ rfl rfl rfl rfl rfl rfl

theorem reportEnd_inv {d : Dev} (h : Inv d) : Inv (Dev.reportEnd d) := by
  unfold Dev.reportEnd
  try dsimp only
  repeat' first
    | with_reducible assumption
    | split
    | with_reducible refine Inv.made ?_ rfl rfl rfl rfl rfl rfl

theorem completeUndock_inv {u : Undock} {d : Dev} (h : Inv d) : Inv (Dev.completeUndock u d) := by
  unfold Dev.completeUndock
  try dsimp only
  repeat' first
    | with_reducible assumption
    | with_reducible apply stageMarker_inv
    | with_reducible apply undock_inv
    | with_reducible apply reportEnd_inv
    | with_reducible apply onSc_inv
    | with_reducible apply freshDock_inv
    | with_reducible apply setDock_inv
    | split
    | with_reducible refine Inv.made ?_ rfl rfl rfl rfl rfl rfl

theorem vacate_inv {k : Pos} {d : Dev} (h : Inv d) : Inv (Dev.vacate k d) := by
  unfold Dev.vacate
  try dsimp only
  repeat' first
    | with_reducible assumption
    | with_reducible apply closeInput_inv
    | with_reducible apply stageMarker_inv
    | with_reducible apply releasePosting_inv
    | with_reducible apply releaseSettings_inv
    | with_reducible apply forgetBlock_inv
    | with_reducible apply contractNone_inv
    | with_reducible apply onPcu_inv
    | split
    | with_reducible refine Inv.made ?_ rfl rfl rfl rfl rfl rfl

theorem enterProbed_inv {k : Pos} {id : Identity} {d : Dev} (h : Inv d) : Inv (Dev.enterProbed k id d) := by
  unfold Dev.enterProbed
  try dsimp only
  repeat' first
    | with_reducible assumption
    | with_reducible apply onEntry_inv
    | with_reducible apply schedule_inv
    | with_reducible refine Inv.made ?_ rfl rfl rfl rfl rfl rfl

theorem broughtIn_inv {k : Pos} {d : Dev} (h : Inv d) : Inv (Dev.broughtIn k d) := by
  unfold Dev.broughtIn
  try dsimp only
  repeat' first
    | with_reducible assumption
    | with_reducible apply sendSegment_inv
    | with_reducible apply onSeg_inv
    | with_reducible apply enterWaiting_inv
    | with_reducible refine onCm_inv ?_ rfl
    | split
    | with_reducible refine Inv.made ?_ rfl rfl rfl rfl rfl rfl

theorem suspend_inv {k : Pos} {d : Dev} (h : Inv d) : Inv (Dev.suspend k d) := by
  unfold Dev.suspend
  try dsimp only
  repeat' first
    | with_reducible assumption
    | with_reducible apply suspendPush_inv
    | with_reducible apply waitPosting_inv
    | with_reducible apply leaveBlock_inv
    | with_reducible apply suspendLines_inv
    | split

theorem sendAway_inv {s : EntryState} {lostAt : Option W32} {k : Pos} {d : Dev} (h : Inv d) : Inv (Dev.sendAway s lostAt k d) := by
  unfold Dev.sendAway
  try dsimp only
  repeat' first
    | with_reducible assumption
    | with_reducible apply onEntry_inv
    | with_reducible apply suspend_inv
    | split

theorem holdNew_inv {k : Pos} {d : Dev} (h : Inv d) : Inv (Dev.holdNew k d) := by
  unfold Dev.holdNew
  try dsimp only
  repeat' first
    | with_reducible assumption
    | with_reducible apply sendAway_inv
    | with_reducible apply unschedule_inv
    | split

theorem takeHeld_inv {k : Pos} {id : Identity} {d : Dev} (h : Inv d) : Inv (Dev.takeHeld k id d) := by
  unfold Dev.takeHeld
  try dsimp only
  repeat' first
    | with_reducible assumption
    | with_reducible apply enterProbed_inv
    | with_reducible apply broughtIn_inv
    | with_reducible apply holdNew_inv
    | split

theorem afterRelease_inv {first : Pos} {a : AfterRelease} {d : Dev} (h : Inv d) : Inv (Dev.afterRelease first a d) := by
  unfold Dev.afterRelease
  try dsimp only
  repeat' first
    | with_reducible assumption
    | with_reducible apply takeHeld_inv
    | with_reducible apply enterWaiting_inv
    | with_reducible apply enterFaulted_inv
    | with_reducible refine onCm_inv ?_ rfl
    | split
    | with_reducible refine Inv.made ?_ rfl rfl rfl rfl rfl rfl

theorem afterReleaseInSequence_inv {a : AfterRelease} {d : Dev} (h : Inv d) : Inv (Dev.afterReleaseInSequence a d) := by
  unfold Dev.afterReleaseInSequence
  try dsimp only
  repeat' first
    | with_reducible assumption
    | with_reducible apply takeHeld_inv
    | split

theorem completeRelease_inv {d : Dev} (h : Inv d) : Inv (Dev.completeRelease d) := by
  unfold Dev.completeRelease
  try dsimp only
  repeat' first
    | with_reducible assumption
    | with_reducible apply onEntry_inv
    | with_reducible apply vacate_inv
    | with_reducible apply releaseLines_inv
    | with_reducible apply undock_inv
    | with_reducible apply completeUndock_inv
    | with_reducible apply stopDiscovery_inv
    | with_reducible apply onSc_inv
    | with_reducible apply afterRelease_inv
    | with_reducible apply afterReleaseInSequence_inv
    | with_reducible refine Inv.foldl ?_ (fun _ _ _ => ?_)
    | split
    | with_reducible refine Inv.made ?_ rfl rfl rfl rfl rfl rfl

theorem coverEntry_inv {k : Pos} {d : Dev} (h : Inv d) : Inv (Dev.coverEntry k d) := by
  unfold Dev.coverEntry
  try dsimp only
  repeat' first
    | with_reducible assumption
    | with_reducible apply onEntry_inv
    | with_reducible apply unschedule_inv
    | with_reducible apply flush_inv
    | with_reducible apply stopPosting_inv
    | with_reducible refine Inv.made ?_ rfl rfl rfl rfl rfl rfl

theorem cover_inv {joining : List Pos} {first : Pos} {messages : List Pos} {after : AfterRelease} {d : Dev} (h : Inv d) : Inv (Dev.cover joining first messages after d) := by
  unfold Dev.cover
  try dsimp only
  repeat' first
    | with_reducible assumption
    | with_reducible apply coverEntry_inv
    | with_reducible apply send_inv
    | with_reducible apply enterWaiting_inv
    | with_reducible apply completeRelease_inv
    | with_reducible refine Inv.foldl ?_ (fun _ _ _ => ?_)
    | split
    | with_reducible refine Inv.made ?_ rfl rfl rfl rfl rfl rfl

theorem requestRelease_inv {first : Pos} {messages : List Pos} {after : AfterRelease} {d : Dev} (h : Inv d) : Inv (Dev.requestRelease first messages after d) := by
  unfold Dev.requestRelease
  try dsimp only
  repeat' first
    | with_reducible assumption
    | with_reducible apply cover_inv
    | split

theorem undock_inv {reason : Option UndockReason} {following : Following} {messages : List Pos} {d : Dev} (h : Inv d) : Inv (Dev.undock reason following messages d) := by
  unfold Dev.undock
  try dsimp only
  repeat' first
    | with_reducible assumption
    | with_reducible apply withdrawUnsent_inv
    | with_reducible apply stopDiscovery_inv
    | with_reducible apply onSc_inv
    | with_reducible apply cover_inv
    | with_reducible apply requestRelease_inv
    | split
    | with_reducible refine Inv.made ?_ rfl rfl rfl rfl rfl rfl

theorem announce_inv {k : Pos} {d : Dev} (h : Inv d) : Inv (Dev.announce k d) := by
  unfold Dev.announce
  try dsimp only
  repeat' first
    | with_reducible assumption
    | with_reducible apply stageMarker_inv
    | with_reducible apply onEntry_inv
    | split
    | with_reducible refine Inv.made ?_ rfl rfl rfl rfl rfl rfl

theorem enterActive_inv {k : Pos} {d : Dev} (h : Inv d) : Inv (Dev.enterActive k d) := by
  unfold Dev.enterActive
  try dsimp only
  repeat' first
    | with_reducible assumption
    | with_reducible apply onEntry_inv
    | with_reducible apply undock_inv
    | with_reducible apply setDock_inv
    | with_reducible apply stageMarker_inv
    | with_reducible apply enterWaiting_inv
    | with_reducible apply onSc_inv
    | with_reducible apply announce_inv
    | with_reducible apply revalidatePosting_inv
    | split
    | with_reducible refine Inv.made ?_ rfl rfl rfl rfl rfl rfl

theorem pendingWhereFailed_inv {k : Pos} {d : Dev} (h : Inv d) : Inv (Dev.pendingWhereFailed k d) := by
  unfold Dev.pendingWhereFailed
  try dsimp only
  split
  · exact h
  · exact wantApplied_inv (onIrPos_inv h)

theorem enterFailed_inv {k : Pos} {d : Dev} (h : Inv d) : Inv (Dev.enterFailed k d) := by
  unfold Dev.enterFailed
  try dsimp only
  repeat' first
    | with_reducible assumption
    | with_reducible apply onEntry_inv
    | with_reducible apply closeInput_inv
    | with_reducible apply announce_inv
    | with_reducible apply onIrPos_inv
    | with_reducible apply pendingWhereFailed_inv
    | with_reducible apply targetFailed_inv
    | with_reducible apply contractNone_inv
    | with_reducible apply undock_inv
    | split
    | with_reducible refine Inv.made ?_ rfl rfl rfl rfl rfl rfl

theorem failEntry_inv {k : Pos} {code : FaultCode} {d : Dev} (h : Inv d) : Inv (Dev.failEntry k code d) := by
  unfold Dev.failEntry
  try dsimp only
  repeat' first
    | with_reducible assumption
    | with_reducible apply logFault_inv
    | with_reducible apply enterFailed_inv

theorem configuringCheck_inv {k : Pos} {d : Dev} (h : Inv d) : Inv (Dev.configuringCheck k d) := by
  unfold Dev.configuringCheck
  try dsimp only
  repeat' first
    | with_reducible assumption
    | with_reducible apply blockDone_inv
    | with_reducible apply enterActive_inv
    | split

theorem sendSessionItems_inv {k : Pos} {d : Dev} (h : Inv d) : Inv (Dev.sendSessionItems k d) := by
  unfold Dev.sendSessionItems
  try dsimp only
  repeat' first
    | with_reducible assumption
    | with_reducible apply send_inv

theorem enterConfiguring_inv {k : Pos} {d : Dev} (h : Inv d) : Inv (Dev.enterConfiguring k d) := by
  unfold Dev.enterConfiguring
  try dsimp only
  repeat' first
    | with_reducible assumption
    | with_reducible apply onEntry_inv
    | with_reducible apply resetSettings_inv
    | with_reducible apply forgetBlock_inv
    | with_reducible apply forgetLines_inv
    | with_reducible apply sendSessionItems_inv
    | split
    | with_reducible refine Inv.made ?_ rfl rfl rfl rfl rfl rfl

theorem startWalk_inv {k : Pos} {d : Dev} (h : Inv d) : Inv (Dev.startWalk k d) := by
  unfold Dev.startWalk
  try dsimp only
  repeat' first
    | with_reducible assumption
    | with_reducible apply onEntry_inv
    | with_reducible apply send_inv
    | with_reducible refine Inv.made ?_ rfl rfl rfl rfl rfl rfl

theorem rejoin_inv {k : Pos} {d : Dev} (h : Inv d) : Inv (Dev.rejoin k d) := by
  unfold Dev.rejoin
  exact Inv.made (schedule_inv h) rfl rfl rfl rfl rfl rfl

theorem resumeEntry_inv {k : Pos} {d : Dev} (h : Inv d) : Inv (Dev.resumeEntry k d) := by
  unfold Dev.resumeEntry
  try dsimp only
  repeat' first
    | with_reducible assumption
    | with_reducible apply onEntry_inv
    | with_reducible apply rejoin_inv
    | with_reducible apply thaw_inv
    | with_reducible apply startWalk_inv
    | with_reducible apply enterConfiguring_inv
    | with_reducible apply startPush_inv
    | with_reducible apply resumePosting_inv
    | with_reducible apply onPcu_inv
    | split
    | with_reducible refine Inv.made ?_ rfl rfl rfl rfl rfl rfl

theorem passFrom_inv {k : Option Pos} {d : Dev} (h : Inv d) : Inv (Dev.passFrom k d) := by
  unfold Dev.passFrom
  try dsimp only
  repeat' first
    | with_reducible assumption
    | with_reducible apply onSc_inv
    | with_reducible apply send_inv
    | split
    | with_reducible refine Inv.made ?_ rfl rfl rfl rfl rfl rfl

theorem setStanding_inv {k : Pos} {s : Option Standing} {d : Dev} (h : Inv d) : Inv (Dev.setStanding k s d) := by
  unfold Dev.setStanding
  try dsimp only
  repeat' first
    | with_reducible assumption
    | with_reducible apply onSeg_inv
    | with_reducible refine Inv.made ?_ rfl rfl rfl rfl rfl rfl

theorem faultSegment_inv {k : Pos} {d : Dev} (h : Inv d) : Inv (Dev.faultSegment k d) := by
  unfold Dev.faultSegment
  try dsimp only
  repeat' first
    | with_reducible assumption
    | with_reducible apply sendSegment_inv
    | with_reducible apply setSegState_inv
    | split

theorem faultFrontier_inv {k : Pos} {d : Dev} (h : Inv d) : Inv (Dev.faultFrontier k d) := by
  unfold Dev.faultFrontier
  try dsimp only
  repeat' first
    | with_reducible assumption
    | with_reducible apply requestRelease_inv
    | with_reducible apply enterFaulted_inv
    | split

theorem partialFault_inv {k : Pos} {code : FaultCode} {sense : Option SenseCode} {d : Dev} (h : Inv d) : Inv (Dev.partialFault k code sense d) := by
  unfold Dev.partialFault
  try dsimp only
  repeat' first
    | with_reducible assumption
    | with_reducible apply logFault_inv
    | with_reducible apply setStanding_inv
    | with_reducible apply faultSegment_inv
    | with_reducible apply faultFrontier_inv
    | split
    | with_reducible refine Inv.made ?_ rfl rfl rfl rfl rfl rfl

theorem raiseUnlocated_inv {k : Pos} {code : SenseCode} {record : Bool} {d : Dev} (h : Inv d) : Inv (Dev.raiseUnlocated k code record d) := by
  unfold Dev.raiseUnlocated
  try dsimp only
  repeat' first
    | with_reducible assumption
    | with_reducible apply logFault_inv
    | with_reducible apply setStanding_inv
    | split
    | with_reducible refine Inv.made ?_ rfl rfl rfl rfl rfl rfl

theorem withdrawSegments_inv {d : Dev} (h : Inv d) : Inv (Dev.withdrawSegments d) := by
  unfold Dev.withdrawSegments
  try dsimp only
  repeat' first
    | with_reducible assumption
    | with_reducible apply withdrawUnsent_inv
    | split

theorem keepDiscovery_inv {d : Dev} (h : Inv d) : Inv (Dev.keepDiscovery d) :=
  h.same rfl rfl rfl rfl rfl rfl

theorem shutChain_inv {k : Pos} {code : SenseCode} {d : Dev} (h : Inv d) : Inv (Dev.shutChain k code d) := by
  unfold Dev.shutChain
  try dsimp only
  repeat' first
    | with_reducible assumption
    | with_reducible apply logFault_inv
    | with_reducible apply setStanding_inv
    | with_reducible apply abandonLocate_inv
    | with_reducible apply withdrawSegments_inv
    | with_reducible apply sendSegment_inv
    | with_reducible apply setSegState_inv
    | with_reducible apply keepDiscovery_inv
    | with_reducible apply requestRelease_inv
    | with_reducible refine onCm_inv ?_ rfl
    | split
    | with_reducible refine Inv.made ?_ rfl rfl rfl rfl rfl rfl

theorem clearStanding_inv {d : Dev} (h : Inv d) : Inv (Dev.clearStanding d) :=
  h.same rfl rfl rfl rfl rfl rfl

theorem startLocate_inv {cause : LocateCause} {sought : Option SenseCode} {d : Dev} (h : Inv d) : Inv (Dev.startLocate cause sought d) := by
  unfold Dev.startLocate
  try dsimp only
  repeat' first
    | with_reducible assumption
    | with_reducible apply clearStanding_inv
    | with_reducible apply withdrawSegments_inv
    | with_reducible apply sendSegment_inv
    | with_reducible apply keepDiscovery_inv
    | with_reducible apply requestRelease_inv
    | with_reducible refine Inv.made ?_ rfl rfl rfl rfl rfl rfl

theorem restartLocate_inv {d : Dev} (h : Inv d) : Inv (Dev.restartLocate d) := by
  unfold Dev.restartLocate
  try dsimp only
  repeat' first
    | with_reducible assumption
    | with_reducible apply startLocate_inv

theorem endLocate_inv {r : LocateResult} {d : Dev} (h : Inv d) : Inv (Dev.endLocate r d) :=
  h.same rfl rfl rfl rfl rfl rfl

theorem notReproduced_inv {recheck : Bool} {d : Dev} (h : Inv d) : Inv (Dev.notReproduced recheck d) := by
  unfold Dev.notReproduced
  try dsimp only
  repeat' first
    | with_reducible assumption
    | with_reducible apply logFault_inv
    | with_reducible apply endLocate_inv
    | with_reducible apply enterComplete_inv
    | split

theorem examine_inv {k : Pos} {d : Dev} (h : Inv d) : Inv (Dev.examine k d) := by
  unfold Dev.examine
  try dsimp only
  repeat' first
    | with_reducible assumption
    | with_reducible apply notReproduced_inv
    | with_reducible apply sendSegment_inv
    | split
    | with_reducible refine Inv.made ?_ rfl rfl rfl rfl rfl rfl

theorem concealedAtStep_inv {k : Pos} {code : SenseCode} {d : Dev} (h : Inv d) : Inv (Dev.concealedAtStep k code d) := by
  unfold Dev.concealedAtStep
  try dsimp only
  repeat' first
    | with_reducible assumption
    | with_reducible apply startLocate_inv
    | with_reducible apply raiseUnlocated_inv
    | with_reducible apply faultSegment_inv
    | with_reducible apply faultFrontier_inv
    | split

theorem locateFault_inv {k : Pos} {code : SenseCode} {d : Dev} (h : Inv d) : Inv (Dev.locateFault k code d) := by
  unfold Dev.locateFault
  try dsimp only
  repeat' first
    | with_reducible assumption
    | with_reducible apply logFault_inv
    | with_reducible apply setStanding_inv
    | with_reducible apply faultSegment_inv
    | with_reducible apply endLocate_inv
    | with_reducible apply enterFaulted_inv
    | with_reducible apply partialFault_inv
    | with_reducible apply shutChain_inv
    | with_reducible apply endOfChain_inv
    | split
    | with_reducible refine Inv.made ?_ rfl rfl rfl rfl rfl rfl

theorem faultAfterRelease_inv {k : Pos} {d : Dev} (h : Inv d) : Inv (Dev.faultAfterRelease k d) := by
  unfold Dev.faultAfterRelease
  try dsimp only
  repeat' first
    | with_reducible assumption
    | with_reducible refine onCm_inv ?_ rfl

theorem watchPartial_inv {k : Pos} {code : SenseCode} {d : Dev} (h : Inv d) : Inv (Dev.watchPartial k code d) := by
  unfold Dev.watchPartial
  try dsimp only
  repeat' first
    | with_reducible assumption
    | with_reducible apply overtakeLocate_inv
    | with_reducible apply faultAfterRelease_inv
    | with_reducible apply logFault_inv
    | with_reducible apply setStanding_inv
    | with_reducible apply faultSegment_inv
    | with_reducible apply enterFaulted_inv
    | with_reducible apply requestRelease_inv
    | with_reducible refine onCm_inv ?_ rfl
    | split
    | with_reducible refine Inv.made ?_ rfl rfl rfl rfl rfl rfl

theorem watchConcealed_inv {k : Pos} {code : SenseCode} {d : Dev} (h : Inv d) : Inv (Dev.watchConcealed k code d) := by
  unfold Dev.watchConcealed
  try dsimp only
  repeat' first
    | with_reducible assumption
    | with_reducible apply raiseUnlocated_inv
    | split

theorem watchConfirmed_inv {k : Pos} {code : SenseCode} {d : Dev} (h : Inv d) : Inv (Dev.watchConfirmed k code d) := by
  unfold Dev.watchConfirmed
  try dsimp only
  repeat' first
    | with_reducible assumption
    | with_reducible apply watchConcealed_inv
    | with_reducible apply watchPartial_inv
    | with_reducible apply startLocate_inv
    | split

theorem watchCode_inv {k : Pos} {code : SenseCode} {d : Dev} (h : Inv d) : Inv (Dev.watchCode k code d) := by
  unfold Dev.watchCode
  try dsimp only
  repeat' first
    | with_reducible assumption
    | with_reducible apply shutChain_inv
    | with_reducible apply onSeg_inv
    | with_reducible apply endOfChain_inv
    | with_reducible apply watchConfirmed_inv
    | split
    | with_reducible refine Inv.made ?_ rfl rfl rfl rfl rfl rfl

theorem stepCode_inv {k : Pos} {code : SenseCode} {d : Dev} (h : Inv d) : Inv (Dev.stepCode k code d) := by
  unfold Dev.stepCode
  try dsimp only
  repeat' first
    | with_reducible assumption
    | with_reducible apply shutChain_inv
    | split
    | with_reducible refine Inv.made ?_ rfl rfl rfl rfl rfl rfl

theorem takeSense_inv {k : Pos} {byte : Byte} {d : Dev} (h : Inv d) : Inv (Dev.takeSense k byte d) := by
  unfold Dev.takeSense
  try dsimp only
  repeat' first
    | with_reducible assumption
    | with_reducible apply onSeg_inv
    | with_reducible apply undock_inv
    | with_reducible apply stepCode_inv
    | with_reducible apply watchCode_inv
    | with_reducible apply shutChain_inv
    | split
    | with_reducible refine Inv.made ?_ rfl rfl rfl rfl rfl rfl

end Sys2Proof.Safety
end

