-- ==== Sys2Proof/Laws/KeptLink.lean ====
section
/-! SUPPORT. The bounds of Safety.Inv are kept by discovery, the session, the walk and the link: one lemma per operation. -/
namespace Sys2Proof.Safety

open Sys2Proof.Machine Sys2Proof.Laws

theorem dropReturned_inv {k : Pos} {d : Dev} (h : Inv d) : Inv (Dev.dropReturned k d) := by
  unfold Dev.dropReturned
  repeat' first
    | with_reducible assumption
    | with_reducible apply requestRelease_inv
    | split

theorem chainEnds_inv {d : Dev} (h : Inv d) : Inv (Dev.chainEnds d) := by
  unfold Dev.chainEnds
  repeat' first
    | with_reducible assumption
    | with_reducible apply enterComplete_inv
    | with_reducible apply dropReturned_inv
    | split

theorem takeStep_inv {isRetry : Bool} {d : Dev} (h : Inv d) : Inv (Dev.takeStep isRetry d) := by
  unfold Dev.takeStep
  try dsimp only
  repeat' first
    | with_reducible assumption
    | with_reducible apply chainEnds_inv
    | with_reducible apply sendSegment_inv
    | split
    | with_reducible refine Inv.made ?_ rfl rfl rfl rfl rfl rfl

theorem locateNext_inv {d : Dev} (h : Inv d) : Inv (Dev.locateNext d) := by
  unfold Dev.locateNext
  try dsimp only
  repeat' first
    | with_reducible assumption
    | with_reducible apply notReproduced_inv
    | with_reducible apply examine_inv
    | split

theorem discoveryStep_inv {d : Dev} (h : Inv d) : Inv (Dev.discoveryStep d) := by
  unfold Dev.discoveryStep
  try dsimp only
  repeat' first
    | with_reducible assumption
    | with_reducible apply takeStep_inv
    | with_reducible apply locateNext_inv
    | with_reducible apply send_inv
    | split

theorem frontierExpiry_inv {d : Dev} (h : Inv d) : Inv (Dev.frontierExpiry d) := by
  unfold Dev.frontierExpiry
  try dsimp only
  repeat' first
    | with_reducible assumption
    | with_reducible apply takeStep_inv
    | with_reducible refine onCm_inv ?_ rfl
    | split
    | with_reducible refine Inv.made ?_ rfl rfl rfl rfl rfl rfl

theorem stepFault_inv {k : Pos} {code : SenseCode} {d : Dev} (h : Inv d) : Inv (Dev.stepFault k code d) := by
  unfold Dev.stepFault
  try dsimp only
  repeat' first
    | with_reducible assumption
    | with_reducible apply concealedAtStep_inv
    | with_reducible apply partialFault_inv
    | split

theorem beginProbing_inv {k : Pos} {d : Dev} (h : Inv d) : Inv (Dev.beginProbing k d) := by
  unfold Dev.beginProbing
  try dsimp only
  repeat' first
    | with_reducible assumption
    | with_reducible apply send_inv
    | split
    | with_reducible refine Inv.made ?_ rfl rfl rfl rfl rfl rfl

theorem endOfChain_inv {k : Pos} {d : Dev} (h : Inv d) : Inv (Dev.endOfChain k d) := by
  unfold Dev.endOfChain
  try dsimp only
  repeat' first
    | with_reducible assumption
    | with_reducible apply dropReturned_inv
    | with_reducible apply sendSegment_inv
    | with_reducible refine onCm_inv ?_ rfl
    | split
    | with_reducible refine Inv.made ?_ rfl rfl rfl rfl rfl rfl

theorem observationEnd_inv {d : Dev} (h : Inv d) : Inv (Dev.observationEnd d) := by
  unfold Dev.observationEnd
  try dsimp only
  repeat' first
    | with_reducible assumption
    | with_reducible apply undock_inv
    | with_reducible apply stepFault_inv
    | with_reducible apply beginProbing_inv
    | with_reducible apply endOfChain_inv
    | split

theorem locateObservationEnd_inv {d : Dev} (h : Inv d) : Inv (Dev.locateObservationEnd d) := by
  unfold Dev.locateObservationEnd
  try dsimp only
  repeat' first
    | with_reducible assumption
    | with_reducible apply undock_inv
    | with_reducible apply locateFault_inv
    | with_reducible apply send_inv
    | with_reducible apply sendSegment_inv
    | with_reducible apply notReproduced_inv
    | split
    | with_reducible refine Inv.made ?_ rfl rfl rfl rfl rfl rfl

theorem settlingEnd_inv {d : Dev} (h : Inv d) : Inv (Dev.settlingEnd d) := by
  unfold Dev.settlingEnd
  try dsimp only
  repeat' first
    | with_reducible assumption
    | with_reducible apply examine_inv
    | split

theorem diagResult_inv {j : Pos} {code : ResultCode} {d : Dev} (h : Inv d) : Inv (Dev.diagResult j code d) := by
  unfold Dev.diagResult
  try dsimp only
  repeat' first
    | with_reducible assumption
    | with_reducible apply setSegState_inv
    | with_reducible apply sendSegment_inv
    | with_reducible apply chainEnds_inv
    | with_reducible refine onCm_inv ?_ rfl
    | split
    | with_reducible refine Inv.made ?_ rfl rfl rfl rfl rfl rfl

theorem endOffResult_inv {j : Pos} {code : ResultCode} {d : Dev} (h : Inv d) : Inv (Dev.endOffResult j code d) := by
  unfold Dev.endOffResult
  try dsimp only
  repeat' first
    | with_reducible assumption
    | with_reducible apply setSegState_inv
    | with_reducible apply setStanding_inv
    | with_reducible apply enterComplete_inv
    | with_reducible apply sendSegment_inv
    | with_reducible refine onCm_inv ?_ rfl
    | split
    | with_reducible refine Inv.made ?_ rfl rfl rfl rfl rfl rfl

theorem bringOnResult_inv {j : Pos} {code : ResultCode} {d : Dev} (h : Inv d) : Inv (Dev.bringOnResult j code d) := by
  unfold Dev.bringOnResult
  try dsimp only
  repeat' first
    | with_reducible assumption
    | with_reducible refine onCm_inv ?_ rfl
    | with_reducible apply undock_inv
    | with_reducible apply sendSegment_inv
    | with_reducible apply setSegState_inv
    | split

theorem offAgain_inv {j : Pos} {use : SegUse} {wanted : Bool} {code : ResultCode} {d : Dev} (h : Inv d) : Inv (Dev.offAgain j use wanted code d) := by
  unfold Dev.offAgain
  try dsimp only
  repeat' first
    | with_reducible assumption
    | with_reducible apply sendSegment_inv
    | split

theorem frozenResult_inv {j : Pos} {s : SegState} {code : ResultCode} {d : Dev} (h : Inv d) : Inv (Dev.frozenResult j s code d) := by
  unfold Dev.frozenResult
  split
  · exact setSegState_inv h
  · exact h

theorem locateOffResult_inv {code : ResultCode} {d : Dev} (h : Inv d) : Inv (Dev.locateOffResult code d) := by
  unfold Dev.locateOffResult
  try dsimp only
  repeat' first
    | with_reducible assumption
    | with_reducible apply setSegState_inv
    | with_reducible apply frozenResult_inv
    | with_reducible apply sendSegment_inv
    | split
    | with_reducible refine Inv.made ?_ rfl rfl rfl rfl rfl rfl

theorem locateDiagResult_inv {j : Pos} {code : ResultCode} {d : Dev} (h : Inv d) : Inv (Dev.locateDiagResult j code d) := by
  unfold Dev.locateDiagResult
  try dsimp only
  repeat' first
    | with_reducible assumption
    | with_reducible apply setSegState_inv
    | with_reducible apply frozenResult_inv
    | with_reducible apply sendSegment_inv
    | with_reducible apply notReproduced_inv
    | with_reducible refine onCm_inv ?_ rfl
    | split
    | with_reducible refine Inv.made ?_ rfl rfl rfl rfl rfl rfl

theorem segmentResult_inv {j : Pos} {use : SegUse} {code : ResultCode} {d : Dev} (h : Inv d) : Inv (Dev.segmentResult j use code d) := by
  unfold Dev.segmentResult
  try dsimp only
  repeat' first
    | with_reducible assumption
    | with_reducible apply diagResult_inv
    | with_reducible apply endOffResult_inv
    | with_reducible apply bringOnResult_inv
    | with_reducible apply offAgain_inv
    | with_reducible apply locateOffResult_inv
    | with_reducible apply locateDiagResult_inv
    | split

theorem stepBroughtIn_inv {k : Pos} {d : Dev} (h : Inv d) : Inv (Dev.stepBroughtIn k d) := by
  unfold Dev.stepBroughtIn
  try dsimp only
  repeat' first
    | with_reducible assumption
    | with_reducible apply sendSegment_inv
    | with_reducible apply setStanding_inv
    | with_reducible apply broughtIn_inv
    | split
    | with_reducible refine Inv.made ?_ rfl rfl rfl rfl rfl rfl

theorem rediscover_inv {k : Pos} {id : Identity} {d : Dev} (h : Inv d) : Inv (Dev.rediscover k id d) := by
  unfold Dev.rediscover
  try dsimp only
  repeat' first
    | with_reducible assumption
    | with_reducible apply onEntry_inv
    | with_reducible apply schedule_inv
    | with_reducible refine Inv.made ?_ rfl rfl rfl rfl rfl rfl

theorem endProbing_inv {k : Pos} {d : Dev} (h : Inv d) : Inv (Dev.endProbing k d) := by
  unfold Dev.endProbing
  try dsimp only
  repeat' first
    | with_reducible assumption
    | with_reducible apply locateFault_inv
    | with_reducible apply stepFault_inv
    | split

theorem answerTaken_inv {k : Pos} {step : Bool} {d : Dev} (h : Inv d) : Inv (Dev.answerTaken k step d) := by
  unfold Dev.answerTaken
  try dsimp only
  repeat' first
    | with_reducible assumption
    | with_reducible apply holdNew_inv
    | with_reducible apply stepBroughtIn_inv
    | split

theorem takeAnswer_inv {k : Pos} {id : Identity} {step : Bool} {d : Dev} (h : Inv d) : Inv (Dev.takeAnswer k id step d) := by
  unfold Dev.takeAnswer
  try dsimp only
  repeat' first
    | with_reducible assumption
    | with_reducible apply rediscover_inv
    | with_reducible apply answerTaken_inv
    | with_reducible apply requestRelease_inv
    | with_reducible apply enterProbed_inv
    | split

theorem probeTaken_inv {k : Pos} {id : Identity} {d : Dev} (h : Inv d) : Inv (Dev.probeTaken k id d) := by
  unfold Dev.probeTaken
  try dsimp only
  repeat' first
    | with_reducible assumption
    | with_reducible apply endProbing_inv
    | with_reducible apply takeAnswer_inv

theorem silent_inv {k : Pos} {d : Dev} (h : Inv d) : Inv (Dev.silent k d) := by
  unfold Dev.silent
  try dsimp only
  repeat' first
    | with_reducible assumption
    | with_reducible apply endLocate_inv
    | with_reducible apply partialFault_inv
    | split

theorem probeFailed_inv {k : Pos} {d : Dev} (h : Inv d) : Inv (Dev.probeFailed k d) := by
  unfold Dev.probeFailed
  try dsimp only
  repeat' first
    | with_reducible assumption
    | with_reducible apply send_inv
    | with_reducible apply silent_inv
    | split

theorem chainRetry_inv {d : Dev} (h : Inv d) : Inv (Dev.chainRetry d) := by
  unfold Dev.chainRetry
  try dsimp only
  repeat' first
    | with_reducible assumption
    | with_reducible apply requestRelease_inv
    | with_reducible apply enterWaiting_inv
    | with_reducible apply clearStanding_inv
    | with_reducible apply restartLocate_inv
    | with_reducible refine onCm_inv ?_ rfl
    | split
    | with_reducible refine Inv.made ?_ rfl rfl rfl rfl rfl rfl

theorem locateRequest_inv {d : Dev} (h : Inv d) : Inv (Dev.locateRequest d) := by
  unfold Dev.locateRequest
  try dsimp only
  repeat' first
    | with_reducible assumption
    | with_reducible apply undock_inv
    | with_reducible apply startLocate_inv
    | split

theorem holdTick_inv {d : Dev} (h : Inv d) : Inv (Dev.holdTick d) := by
  unfold Dev.holdTick
  try dsimp only
  repeat' first
    | with_reducible assumption
    | with_reducible apply onSc_inv
    | with_reducible apply send_inv
    | split
    | with_reducible refine Inv.made ?_ rfl rfl rfl rfl rfl rfl

theorem holdDiscovery_inv {d : Dev} (h : Inv d) : Inv (Dev.holdDiscovery d) := by
  unfold Dev.holdDiscovery
  try dsimp only
  repeat' first
    | with_reducible assumption
    | with_reducible refine onCm_inv ?_ rfl
    | split
    | with_reducible refine Inv.made ?_ rfl rfl rfl rfl rfl rfl

theorem beginHold_inv {d : Dev} (h : Inv d) : Inv (Dev.beginHold d) := by
  unfold Dev.beginHold
  try dsimp only
  repeat' first
    | with_reducible assumption
    | with_reducible apply setDock_inv
    | with_reducible apply sendAway_inv
    | with_reducible apply holdDiscovery_inv
    | with_reducible apply holdTick_inv
    | with_reducible refine Inv.foldl ?_ (fun _ _ _ => ?_)
    | with_reducible refine Inv.made ?_ rfl rfl rfl rfl rfl rfl

theorem backToDocked_inv {d : Dev} (h : Inv d) : Inv (Dev.backToDocked d) := by
  unfold Dev.backToDocked
  try dsimp only
  repeat' first
    | with_reducible assumption
    | with_reducible apply setDock_inv
    | with_reducible apply restartLocate_inv
    | with_reducible refine onCm_inv ?_ rfl
    | split
    | with_reducible refine Inv.made ?_ rfl rfl rfl rfl rfl rfl

theorem sendOwedOn_inv {d : Dev} (h : Inv d) : Inv (Dev.sendOwedOn d) := by
  unfold Dev.sendOwedOn
  try dsimp only
  repeat' first
    | with_reducible assumption
    | with_reducible refine onCm_inv ?_ rfl
    | with_reducible apply sendSegment_inv
    | with_reducible refine when_inv ?_ (fun _ => ?_)
    | with_reducible refine Inv.foldl ?_ (fun _ _ _ => ?_)
    | split

theorem cradleResumed_inv {d : Dev} (h : Inv d) : Inv (Dev.cradleResumed d) := by
  unfold Dev.cradleResumed
  try dsimp only
  repeat' first
    | with_reducible assumption
    | with_reducible apply sendOwedOn_inv
    | with_reducible apply resumeEntry_inv
    | with_reducible apply backToDocked_inv
    | with_reducible apply withdrawUnsent_inv
    | with_reducible apply passFrom_inv

theorem markReturned_inv {k : Pos} {d : Dev} (h : Inv d) : Inv (Dev.markReturned k d) := by
  unfold Dev.markReturned
  try dsimp only
  repeat' first
    | with_reducible assumption
    | with_reducible apply onEntry_inv
    | with_reducible apply closeInput_inv
    | with_reducible apply resetSettings_inv
    | with_reducible apply returnPosting_inv
    | with_reducible apply forgetLines_inv
    | with_reducible apply contractNone_inv
    | with_reducible apply leaveBlock_inv
    | split
    | with_reducible refine Inv.made ?_ rfl rfl rfl rfl rfl rfl

theorem cradleReturned_inv {id : Identity} {d : Dev} (h : Inv d) : Inv (Dev.cradleReturned id d) := by
  unfold Dev.cradleReturned
  try dsimp only
  repeat' first
    | with_reducible assumption
    | with_reducible apply markReturned_inv
    | with_reducible apply onEntry_inv
    | with_reducible apply schedule_inv
    | with_reducible apply withdrawUnsent_inv
    | with_reducible apply enterWaiting_inv
    | with_reducible apply backToDocked_inv
    | with_reducible refine onCm_inv ?_ rfl
    | with_reducible refine Inv.foldl ?_ (fun _ _ _ => ?_)
    | split
    | with_reducible refine Inv.made ?_ rfl rfl rfl rfl rfl rfl

theorem cradleProbed_inv {id : Identity} {d : Dev} (h : Inv d) : Inv (Dev.cradleProbed id d) := by
  unfold Dev.cradleProbed
  try dsimp only
  repeat' first
    | with_reducible assumption
    | with_reducible apply undock_inv
    | with_reducible apply onSc_inv
    | with_reducible apply cradleReturned_inv
    | with_reducible apply enterProbed_inv
    | split
    | with_reducible refine Inv.made ?_ rfl rfl rfl rfl rfl rfl

theorem cradleMismatch_inv {d : Dev} (h : Inv d) : Inv (Dev.cradleMismatch d) := by
  unfold Dev.cradleMismatch
  try dsimp only
  repeat' first
    | with_reducible assumption
    | with_reducible apply undock_inv
    | with_reducible apply cradleResumed_inv
    | with_reducible apply resumeEntry_inv
    | split

theorem resumeDone_inv {k : Pos} {d : Dev} (h : Inv d) : Inv (Dev.resumeDone k d) := by
  unfold Dev.resumeDone
  try dsimp only
  repeat' first
    | with_reducible assumption
    | with_reducible apply cradleResumed_inv
    | with_reducible apply resumeEntry_inv
    | with_reducible refine onCm_inv ?_ rfl
    | split
    | with_reducible refine Inv.made ?_ rfl rfl rfl rfl rfl rfl

theorem resumeMismatch_inv {k : Pos} {d : Dev} (h : Inv d) : Inv (Dev.resumeMismatch k d) := by
  unfold Dev.resumeMismatch
  try dsimp only
  repeat' first
    | with_reducible assumption
    | with_reducible apply resumeDone_inv
    | with_reducible apply overtakeLocate_inv
    | with_reducible apply requestRelease_inv
    | split

theorem loseHeld_inv {k : Pos} {d : Dev} (h : Inv d) : Inv (Dev.loseHeld k d) := by
  unfold Dev.loseHeld
  split
  · exact leaveBlock_inv (onEntry_inv h)
  · exact h

theorem loseFrom_inv {k : Pos} {d : Dev} (h : Inv d) : Inv (Dev.loseFrom k d) :=
  Inv.foldl h fun _ _ h => loseHeld_inv h

theorem resumeFailed_inv {k : Pos} {d : Dev} (h : Inv d) : Inv (Dev.resumeFailed k d) := by
  unfold Dev.resumeFailed
  try dsimp only
  repeat' first
    | with_reducible assumption
    | with_reducible apply onEntry_inv
    | with_reducible apply send_inv
    | with_reducible apply loseFrom_inv
    | with_reducible apply passFrom_inv
    | split
    | with_reducible refine Inv.made ?_ rfl rfl rfl rfl rfl rfl

theorem resumeResult_inv {k : Pos} {code : ResultCode} {d : Dev} (h : Inv d) : Inv (Dev.resumeResult k code d) := by
  unfold Dev.resumeResult
  try dsimp only
  repeat' first
    | with_reducible assumption
    | with_reducible apply undock_inv
    | with_reducible apply passFrom_inv
    | with_reducible apply resumeDone_inv
    | with_reducible apply cradleMismatch_inv
    | with_reducible apply resumeMismatch_inv
    | with_reducible apply resumeFailed_inv
    | split

theorem takeLoss_inv {k : Pos} {d : Dev} (h : Inv d) : Inv (Dev.takeLoss k d) := by
  unfold Dev.takeLoss
  try dsimp only
  repeat' first
    | with_reducible assumption
    | with_reducible apply sendAway_inv
    | with_reducible apply unschedule_inv
    | with_reducible apply logFault_inv
    | with_reducible refine Inv.foldl ?_ (fun _ _ _ => ?_)
    | split

theorem queueResume_inv {k : Pos} {d : Dev} (h : Inv d) : Inv (Dev.queueResume k d) := by
  unfold Dev.queueResume
  try dsimp only
  repeat' first
    | with_reducible assumption
    | with_reducible apply send_inv
    | with_reducible refine onCm_inv ?_ rfl
    | with_reducible refine Inv.made ?_ rfl rfl rfl rfl rfl rfl

theorem resumeTimerExpiry_inv {d : Dev} (h : Inv d) : Inv (Dev.resumeTimerExpiry d) := by
  unfold Dev.resumeTimerExpiry
  try dsimp only
  repeat' first
    | with_reducible assumption
    | with_reducible apply queueResume_inv
    | split

theorem lostExpiry_inv {k : Pos} {d : Dev} (h : Inv d) : Inv (Dev.lostExpiry k d) := by
  unfold Dev.lostExpiry
  try dsimp only
  repeat' first
    | with_reducible assumption
    | with_reducible apply overtakeLocate_inv
    | with_reducible apply requestRelease_inv
    | split

theorem startSequence_inv {forDisable : Bool} {d : Dev} (h : Inv d) : Inv (Dev.startSequence forDisable d) := by
  unfold Dev.startSequence
  try dsimp only
  repeat' first
    | with_reducible assumption
    | with_reducible apply withdrawUnsent_inv
    | with_reducible apply stopDiscovery_inv
    | with_reducible apply setDock_inv
    | with_reducible apply onSc_inv
    | with_reducible apply failPosting_inv
    | with_reducible apply abandonPushes_inv
    | with_reducible refine Inv.made ?_ rfl rfl rfl rfl rfl rfl

theorem releasePress_inv {d : Dev} (h : Inv d) : Inv (Dev.releasePress d) := by
  unfold Dev.releasePress
  try dsimp only
  repeat' first
    | with_reducible assumption
    | with_reducible apply undock_inv
    | with_reducible apply startSequence_inv
    | split

theorem releaseRequest_inv {d : Dev} (h : Inv d) : Inv (Dev.releaseRequest d) := by
  unfold Dev.releaseRequest
  try dsimp only
  repeat' first
    | with_reducible assumption
    | with_reducible apply undock_inv
    | with_reducible apply startSequence_inv
    | split

theorem disableRequest_inv {d : Dev} (h : Inv d) : Inv (Dev.disableRequest d) := by
  unfold Dev.disableRequest
  try dsimp only
  repeat' first
    | with_reducible assumption
    | with_reducible apply undock_inv
    | with_reducible apply onSc_inv
    | with_reducible apply startSequence_inv
    | split
    | with_reducible refine Inv.made ?_ rfl rfl rfl rfl rfl rfl

theorem releaseFrom_inv {n : Nat} {d : Dev} (h : Inv d) : Inv (Dev.releaseFrom n d) := by
  unfold Dev.releaseFrom
  try dsimp only
  repeat' first
    | with_reducible assumption
    | with_reducible apply onSc_inv
    | with_reducible apply send_inv
    | with_reducible apply undock_inv
    | split
    | with_reducible refine Inv.made ?_ rfl rfl rfl rfl rfl rfl

theorem inputDrainEnd_inv {d : Dev} (h : Inv d) : Inv (Dev.inputDrainEnd d) := by
  unfold Dev.inputDrainEnd
  try dsimp only
  repeat' first
    | with_reducible assumption
    | with_reducible apply releaseFrom_inv
    | split

theorem sequenceReleased_inv {k : Pos} {d : Dev} (h : Inv d) : Inv (Dev.sequenceReleased k d) := by
  unfold Dev.sequenceReleased
  try dsimp only
  repeat' first
    | with_reducible assumption
    | with_reducible apply releaseFrom_inv
    | split

theorem releaseReturned_inv {k : Pos} {d : Dev} (h : Inv d) : Inv (Dev.releaseReturned k d) := by
  unfold Dev.releaseReturned
  try dsimp only
  repeat' first
    | with_reducible assumption
    | with_reducible refine onCm_inv ?_ rfl
    | with_reducible refine Inv.made ?_ rfl rfl rfl rfl rfl rfl

theorem releaseComplete_inv {d : Dev} (h : Inv d) : Inv (Dev.releaseComplete d) := by
  unfold Dev.releaseComplete
  try dsimp only
  repeat' first
    | with_reducible assumption
    | with_reducible apply completeRelease_inv
    | split

theorem setWalk_inv {k : Pos} {w : Option Walk} {d : Dev} (h : Inv d) : Inv (Dev.setWalk k w d) :=
  h.same rfl rfl rfl rfl rfl rfl

theorem onCaps_inv {k : Pos} {f : Caps → Caps} {d : Dev} (h : Inv d) : Inv (Dev.onCaps k f d) := by
  unfold Dev.onCaps
  try dsimp only
  repeat' first
    | with_reducible assumption
    | with_reducible apply onEntry_inv
    | with_reducible refine Inv.made ?_ rfl rfl rfl rfl rfl rfl

theorem endLocateAt_inv {k : Pos} {d : Dev} (h : Inv d) : Inv (Dev.endLocateAt k d) := by
  unfold Dev.endLocateAt
  try dsimp only
  repeat' first
    | with_reducible assumption
    | with_reducible apply notReproduced_inv
    | split

theorem breach_inv {k : Pos} {code : FaultCode} {d : Dev} (h : Inv d) : Inv (Dev.breach k code d) := by
  unfold Dev.breach
  try dsimp only
  repeat' first
    | with_reducible assumption
    | with_reducible apply endLocateAt_inv
    | with_reducible apply setWalk_inv
    | with_reducible apply onEntry_inv
    | with_reducible apply failEntry_inv
    | with_reducible apply placeLines_inv
    | split
    | with_reducible refine Inv.made ?_ rfl rfl rfl rfl rfl rfl

theorem endWalk_inv {k : Pos} {d : Dev} (h : Inv d) : Inv (Dev.endWalk k d) := by
  unfold Dev.endWalk
  try dsimp only
  repeat' first
    | with_reducible assumption
    | with_reducible apply endLocateAt_inv
    | with_reducible apply breach_inv
    | with_reducible apply onEntry_inv
    | with_reducible apply enterConfiguring_inv
    | with_reducible apply placeLines_inv
    | split
    | with_reducible refine Inv.made ?_ rfl rfl rfl rfl rfl rfl

theorem readAt_inv {k : Pos} {w : Walk} {o : Nat} {d : Dev} (h : Inv d) : Inv (Dev.readAt k w o d) := by
  unfold Dev.readAt
  try dsimp only
  repeat' first
    | with_reducible assumption
    | with_reducible apply setWalk_inv
    | with_reducible apply send_inv

theorem nextRecord_inv {k : Pos} {w : Walk} {next : Nat} {d : Dev} (h : Inv d) : Inv (Dev.nextRecord k w next d) := by
  unfold Dev.nextRecord
  try dsimp only
  repeat' first
    | with_reducible assumption
    | with_reducible apply endWalk_inv
    | with_reducible apply readAt_inv
    | split
    | with_reducible refine Inv.made ?_ rfl rfl rfl rfl rfl rfl

theorem useRecord_inv {k : Pos} {w : Walk} {kind length next : Nat} {bs : List Byte} {d : Dev} (h : Inv d) : Inv (Dev.useRecord k w kind length next bs d) := by
  unfold Dev.useRecord
  try dsimp only
  repeat' first
    | with_reducible assumption
    | with_reducible apply breach_inv
    | with_reducible apply onCaps_inv
    | with_reducible apply nextRecord_inv
    | split
    | with_reducible refine Inv.made ?_ rfl rfl rfl rfl rfl rfl

theorem takeRecord_inv {k : Pos} {w : Walk} {o : Nat} {buf data : List Byte} {d : Dev} (h : Inv d) : Inv (Dev.takeRecord k w o buf data d) := by
  unfold Dev.takeRecord
  try dsimp only
  repeat' first
    | with_reducible assumption
    | with_reducible apply breach_inv
    | with_reducible apply nextRecord_inv
    | with_reducible apply readAt_inv
    | with_reducible apply useRecord_inv
    | split
    | with_reducible refine Inv.made ?_ rfl rfl rfl rfl rfl rfl

theorem takeDescriptor_inv {k : Pos} {w : Walk} {data : List Byte} {d : Dev} (h : Inv d) : Inv (Dev.takeDescriptor k w data d) := by
  unfold Dev.takeDescriptor
  try dsimp only
  repeat' first
    | with_reducible assumption
    | with_reducible apply breach_inv
    | with_reducible apply readAt_inv
    | with_reducible apply takeRecord_inv
    | split
    | with_reducible refine Inv.made ?_ rfl rfl rfl rfl rfl rfl

theorem readResult_inv {k : Pos} {offset : Byte} {serial : Nat} {code : ResultCode} {data : List Byte} {d : Dev} (h : Inv d) : Inv (Dev.readResult k offset serial code data d) := by
  unfold Dev.readResult
  try dsimp only
  repeat' first
    | with_reducible assumption
    | with_reducible apply takeDescriptor_inv
    | with_reducible apply send_inv
    | with_reducible apply breach_inv
    | with_reducible apply setWalk_inv
    | split

theorem tokenTaken_inv {k : Pos} {items : List SetItem} {d : Dev} (h : Inv d) : Inv (Dev.tokenTaken k items d) := by
  unfold Dev.tokenTaken
  try dsimp only
  repeat' first
    | with_reducible assumption
    | with_reducible apply onShadow_inv
    | with_reducible apply openInput_inv
    | split

theorem sessionEnds_inv {k : Pos} {d : Dev} (h : Inv d) : Inv (Dev.sessionEnds k d) := by
  unfold Dev.sessionEnds
  try dsimp only
  repeat' first
    | with_reducible assumption
    | with_reducible apply select_inv
    | with_reducible apply startPush_inv
    | with_reducible apply sendBlock_inv
    | with_reducible apply sendLines_inv
    | with_reducible apply configuringCheck_inv
    | split
    | with_reducible refine Inv.made ?_ rfl rfl rfl rfl rfl rfl

theorem sessionResult_inv {k : Pos} {items : List SetItem} {serial : Nat} {code : ResultCode} {d : Dev} (h : Inv d) : Inv (Dev.sessionResult k items serial code d) := by
  unfold Dev.sessionResult
  try dsimp only
  repeat' first
    | with_reducible assumption
    | with_reducible apply sessionEnds_inv
    | with_reducible apply tokenTaken_inv
    | with_reducible apply send_inv
    | with_reducible apply failEntry_inv
    | split

theorem irSetResult_inv {k : Pos} {items : List SetItem} {code : ResultCode} {d : Dev} (h : Inv d) : Inv (Dev.irSetResult k items code d) := by
  unfold Dev.irSetResult
  try dsimp only
  repeat' first
    | with_reducible assumption
    | with_reducible apply settingResult_inv
    | with_reducible apply failEntry_inv
    | with_reducible apply configuringCheck_inv
    | split

theorem blockResult_inv {k : Pos} {block : W64} {code : ResultCode} {d : Dev} (h : Inv d) : Inv (Dev.blockResult k block code d) := by
  unfold Dev.blockResult
  try dsimp only
  repeat' first
    | with_reducible assumption
    | with_reducible apply resendBlock_inv
    | with_reducible apply onPcu_inv
    | with_reducible apply sendBlock_inv
    | with_reducible apply configuringCheck_inv
    | with_reducible apply failEntry_inv
    | with_reducible refine onCm_inv ?_ rfl
    | split
    | with_reducible refine Inv.made ?_ rfl rfl rfl rfl rfl rfl

theorem withResult_inv {p : CtrlResult → Bool} {f : CtrlResult → ResultCode → Dev → Dev} {d : Dev} (h : Inv d)
    (hf : ∀ r c d, Inv d → Inv (f r c d)) : Inv (Dev.withResult p f d) := by
  unfold Dev.withResult
  split
  · exact h
  · exact hf _ _ _ (h.same rfl rfl rfl rfl rfl rfl)


theorem withdrawnLeaves_inv {k : Pos} {m : Msg} {d : Dev} (h : Inv d) : Inv (Dev.withdrawnLeaves k m d) := by
  unfold Dev.withdrawnLeaves
  try dsimp only
  repeat' first
    | with_reducible assumption
    | with_reducible apply learnShadow_inv
    | with_reducible apply confirmLines_inv
    | with_reducible apply settleLines_inv
    | split

theorem endMessage_inv {k : Pos} {probe : Bool} {m : Msg} {code : ResultCode} {data : List Byte} {d : Dev} (h : Inv d) : Inv (Dev.endMessage k probe m code data d) := addResult_inv (setInFlight_inv h fun _ _ e => nomatch e)

theorem busyReply_inv {k : Pos} {probe : Bool} {m : Msg} {d : Dev} (h : Inv d) : Inv (Dev.busyReply k probe m d) := by
  unfold Dev.busyReply
  split
  · split
    · exact endMessage_inv h
    · exact setInFlight_inv h fun _ _ e => by rw [← Option.some.inj e]
  · exact setInFlight_inv h fun _ _ e => by rw [← Option.some.inj e]

theorem missedReply_inv {k : Pos} {probe : Bool} {m : Msg} {d : Dev} (h : Inv d) : Inv (Dev.missedReply k probe m d) := by
  unfold Dev.missedReply
  split
  · exact endMessage_inv h
  · exact setInFlight_inv h fun _ _ e => by rw [← Option.some.inj e]

theorem takeReply_inv {k : Pos} {probe : Bool} {a : Option Answer} {d : Dev} (h : Inv d) : Inv (Dev.takeReply k probe a d) := by
  unfold Dev.takeReply
  repeat' first
    | with_reducible assumption
    | with_reducible apply endMessage_inv
    | with_reducible apply withdrawnLeaves_inv
    | with_reducible apply busyReply_inv
    | with_reducible apply missedReply_inv
    | with_reducible refine setInFlight_inv ?_ fun _ _ e => nomatch e
    | split

theorem goodHit_inv {k : Pos} {d : Dev} (h : Inv d) : Inv (Dev.goodHit k d) := by
  unfold Dev.goodHit
  try dsimp only
  repeat' first
    | with_reducible assumption
    | split
    | with_reducible refine Inv.made ?_ rfl rfl rfl rfl rfl rfl

theorem missHit_inv {k : Pos} {d : Dev} (h : Inv d) : Inv (Dev.missHit k d) := by
  unfold Dev.missHit
  try dsimp only
  repeat' first
    | with_reducible assumption
    | split
    | with_reducible refine Inv.made ?_ rfl rfl rfl rfl rfl rfl

theorem errorHit_inv {k : Pos} {d : Dev} (h : Inv d) : Inv (Dev.errorHit k d) := by
  unfold Dev.errorHit
  try dsimp only
  repeat' first
    | with_reducible assumption
    | with_reducible apply checkDegraded_inv
    | split
    | with_reducible refine Inv.made ?_ rfl rfl rfl rfl rfl rfl

theorem countInterruption_inv {k : Pos} {d : Dev} (h : Inv d) : Inv (Dev.countInterruption k d) := by
  unfold Dev.countInterruption
  try dsimp only
  repeat' first
    | with_reducible assumption
    | split
    | with_reducible refine Inv.made ?_ rfl rfl rfl rfl rfl rfl

theorem takeLost_inv {k : Pos} {lost : W16} {d : Dev} (h : Inv d) : Inv (Dev.takeLost k lost d) := by
  unfold Dev.takeLost
  try dsimp only
  repeat' first
    | with_reducible assumption
    | with_reducible apply stageMarker_inv
    | with_reducible refine onIc_inv ?_ rfl
    | split
    | with_reducible refine Inv.made ?_ rfl rfl rfl rfl rfl rfl

theorem takeInput_inv {k : Pos} {a : Answer} {d : Dev} (h : Inv d) : Inv (Dev.takeInput k a d) := by
  unfold Dev.takeInput
  try dsimp only
  repeat' first
    | with_reducible assumption
    | with_reducible apply takeEntry_inv
    | with_reducible apply takeLost_inv
    | with_reducible apply onSc_inv
    | with_reducible refine Inv.foldl ?_ (fun _ _ _ => ?_)
    | split
    | with_reducible refine Inv.made ?_ rfl rfl rfl rfl rfl rfl

theorem takeCradle_inv {k : Pos} {a : Answer} {d : Dev} (h : Inv d) : Inv (Dev.takeCradle k a d) := by
  unfold Dev.takeCradle
  try dsimp only
  repeat' first
    | with_reducible assumption
    | with_reducible apply takeSupply_inv
    | split

theorem takeLineLevels_inv {k : Pos} {a : Answer} {d : Dev} (h : Inv d) : Inv (Dev.takeLineLevels k a d) := by
  unfold Dev.takeLineLevels
  try dsimp only
  repeat' first
    | with_reducible assumption
    | with_reducible apply takeLevels_inv
    | split

theorem takeSenseCode_inv {k : Pos} {a : Answer} {d : Dev} (h : Inv d) : Inv (Dev.takeSenseCode k a d) := by
  unfold Dev.takeSenseCode
  try dsimp only
  repeat' first
    | with_reducible assumption
    | with_reducible apply takeSense_inv
    | split

theorem takeDisplayFields_inv {k : Pos} {a : Answer} {d : Dev} (h : Inv d) : Inv (Dev.takeDisplayFields k a d) := by
  unfold Dev.takeDisplayFields
  try dsimp only
  repeat' first
    | with_reducible assumption
    | with_reducible apply takeDisplay_inv
    | split

theorem handOut_inv {k : Pos} {a : Answer} {d : Dev} (h : Inv d) : Inv (Dev.handOut k a d) := by
  unfold Dev.handOut
  try dsimp only
  repeat' first
    | with_reducible assumption
    | with_reducible apply takeReply_inv
    | with_reducible apply takeInput_inv
    | with_reducible apply takeSenseCode_inv
    | with_reducible apply takeCradle_inv
    | with_reducible apply takeLineLevels_inv
    | with_reducible apply takeDisplayFields_inv
    | split

theorem answerWindow_inv {k : Pos} {frame : Option (List Byte)} {d : Dev} (h : Inv d) : Inv (Dev.answerWindow k frame d) := by
  unfold Dev.answerWindow
  try dsimp only
  repeat' first
    | with_reducible assumption
    | with_reducible apply goodHit_inv
    | with_reducible apply handOut_inv
    | with_reducible apply missHit_inv
    | with_reducible apply takeReply_inv
    | with_reducible apply errorHit_inv
    | with_reducible apply countInterruption_inv
    | split
    | with_reducible refine Inv.made ?_ rfl rfl rfl rfl rfl rfl

theorem probeAnswer_inv {frame : Option (List Byte)} {d : Dev} (h : Inv d) : Inv (Dev.probeAnswer frame d) := by
  unfold Dev.probeAnswer
  try dsimp only
  repeat' first
    | with_reducible assumption
    | with_reducible apply takeReply_inv
    | split
    | with_reducible refine Inv.made ?_ rfl rfl rfl rfl rfl rfl

theorem closeWindows_inv {d : Dev} (h : Inv d) : Inv (Dev.closeWindows d) := by
  unfold Dev.closeWindows
  try dsimp only
  repeat' first
    | with_reducible assumption
    | with_reducible apply answerWindow_inv
    | with_reducible apply probeAnswer_inv
    | with_reducible refine Inv.foldl ?_ (fun _ _ _ => ?_)

theorem advanceTiles_inv {n : Nat} {d : Dev} (h : Inv d) : Inv (Dev.advanceTiles n d) := by
  unfold Dev.advanceTiles
  try dsimp only
  repeat' first
    | with_reducible assumption
    | with_reducible apply onPosting_inv
    | with_reducible refine Inv.made ?_ rfl rfl rfl rfl rfl rfl

theorem sendTraffic_inv {d : Dev} (h : Inv d) : Inv (Dev.sendTraffic d) := by
  unfold Dev.sendTraffic
  try dsimp only
  repeat' first
    | with_reducible assumption
    | with_reducible apply sendMessage_inv
    | with_reducible apply advanceTiles_inv
    | with_reducible refine Inv.foldl ?_ (fun _ _ _ => ?_)
    | split
    | with_reducible refine Inv.made ?_ rfl rfl rfl rfl rfl rfl

theorem sendNothing_inv {d : Dev} (h : Inv d) : Inv (Dev.sendNothing d) :=
  h.same rfl rfl rfl rfl rfl rfl

end Sys2Proof.Safety
end

