-- ==== Sys2Proof/Laws/KeptWindow.lean ====
section
/-! SUPPORT. The bounds of Safety.Inv are kept by the window, intake and completions: one lemma per operation. -/
namespace Sys2Proof.Safety

open Sys2Proof.Machine Sys2Proof.Laws

theorem sendNotice_inv {d : Dev} (h : Inv d) : Inv (Dev.sendNotice d) := by
  unfold Dev.sendNotice
  try dsimp only
  repeat' first
    | with_reducible assumption
    | with_reducible apply onXp_inv
    | split
    | with_reducible refine Inv.made ?_ rfl rfl rfl rfl rfl rfl

theorem counterWritten_inv {c : Cause} {d : Dev} (h : Inv d) : Inv (Dev.counterWritten c d) := by
  unfold Dev.counterWritten
  try dsimp only
  repeat' first
    | with_reducible assumption
    | with_reducible apply onXp_inv
    | with_reducible apply sendNotice_inv
    | with_reducible refine onPub_inv ?_ rfl
    | with_reducible refine Inv.made ?_ rfl rfl rfl rfl rfl rfl

theorem wordWritten_inv {w : HeaderWord} {d : Dev} (h : Inv d) : Inv (Dev.wordWritten w d) := by
  unfold Dev.wordWritten
  try dsimp only
  repeat' first
    | with_reducible assumption
    | with_reducible apply counterWritten_inv
    | with_reducible apply onXp_inv
    | with_reducible refine onPub_inv ?_ rfl
    | split
    | with_reducible refine Inv.made ?_ rfl rfl rfl rfl rfl rfl

theorem issueOpen_inv {id : SecId} {d : Dev} (h : Inv d) : Inv (Dev.issueOpen id d) := by
  unfold Dev.issueOpen
  try dsimp only
  repeat' first
    | with_reducible assumption
    | with_reducible apply writeWindow_inv
    | with_reducible apply onSec_inv
    | with_reducible refine Inv.made ?_ rfl rfl rfl rfl rfl rfl

theorem issueFields_inv {id : SecId} {d : Dev} (h : Inv d) : Inv (Dev.issueFields id d) := by
  unfold Dev.issueFields
  try dsimp only
  repeat' first
    | with_reducible assumption
    | with_reducible apply writeWindow_inv
    | with_reducible apply onSec_inv
    | with_reducible refine onPub_inv ?_ rfl
    | split
    | with_reducible refine Inv.made ?_ rfl rfl rfl rfl rfl rfl

theorem issueClose_inv {id : SecId} {d : Dev} (h : Inv d) : Inv (Dev.issueClose id d) := by
  unfold Dev.issueClose
  try dsimp only
  repeat' first
    | with_reducible assumption
    | with_reducible apply writeWindow_inv
    | with_reducible apply onSec_inv
    | with_reducible refine Inv.made ?_ rfl rfl rfl rfl rfl rfl

theorem setEngine_inv {a : Option Access} {d : Dev} (h : Inv d) : Inv (Dev.setEngine a d) := by
  unfold Dev.setEngine
  try dsimp only
  repeat' first
    | with_reducible assumption
    | with_reducible apply onXp_inv
    | with_reducible refine Inv.made ?_ rfl rfl rfl rfl rfl rfl

theorem issueInitial_inv {n : Nat} {d : Dev} (h : Inv d) : Inv (Dev.issueInitial n d) := by
  unfold Dev.issueInitial
  try dsimp only
  repeat' first
    | with_reducible assumption
    | with_reducible apply writeWindow_inv
    | with_reducible apply onXp_inv
    | split
    | with_reducible refine Inv.made ?_ rfl rfl rfl rfl rfl rfl

theorem issueOutcome_inv {c : BitVec 6} {d : Dev} (h : Inv d) : Inv (Dev.issueOutcome c d) := by
  unfold Dev.issueOutcome
  try dsimp only
  repeat' first
    | with_reducible assumption
    | with_reducible apply writeWindow_inv
    | with_reducible refine onDtu_inv ?_ rfl
    | split
    | with_reducible refine Inv.made ?_ rfl rfl rfl rfl rfl rfl

theorem issue_inv {a : Access} {d : Dev} (h : Inv d) : Inv (Dev.issue a d) := by
  unfold Dev.issue
  try dsimp only
  repeat' first
    | with_reducible assumption
    | with_reducible apply issueInitial_inv
    | with_reducible apply writeWindow_inv
    | with_reducible apply wordWritten_inv
    | with_reducible apply issueOpen_inv
    | with_reducible apply issueFields_inv
    | with_reducible apply setEngine_inv
    | with_reducible apply issueClose_inv
    | with_reducible apply issueOutcome_inv
    | with_reducible apply onXp_inv
    | with_reducible refine onIc_inv ?_ rfl
    | with_reducible refine onDtu_inv ?_ rfl
    | split
    | with_reducible refine Inv.made ?_ rfl rfl rfl rfl rfl rfl

theorem setOffer_inv {r : Requester} {a : Option Access} {d : Dev} (h : Inv d) : Inv (Dev.setOffer r a d) :=
  h.same rfl rfl rfl rfl rfl rfl

theorem serve_inv {r : Requester} {a : Access} {d : Dev} (h : Inv d) : Inv (Dev.serve r a d) :=
  h.same rfl rfl rfl rfl rfl rfl

theorem accessFailed_inv {a : Access} {d : Dev} (h : Inv d) : Inv (Dev.accessFailed a d) := by
  unfold Dev.accessFailed
  try dsimp only
  repeat' first
    | with_reducible assumption
    | with_reducible apply onIr_inv
    | with_reducible apply onSec_inv
    | with_reducible refine onDtu_inv ?_ rfl
    | split
    | with_reducible refine Inv.made ?_ rfl rfl rfl rfl rfl rfl

theorem offerAgain_inv {r : Requester} {a : Access} {d : Dev} (h : Inv d) : Inv (Dev.offerAgain r a d) := by
  unfold Dev.offerAgain
  repeat' first
    | with_reducible assumption
    | with_reducible apply setOffer_inv
    | with_reducible apply accessFailed_inv
    | split

theorem enterStall_inv {r : Requester} {a : Access} {d : Dev} (h : Inv d) : Inv (Dev.enterStall r a d) := by
  unfold Dev.enterStall
  try dsimp only
  repeat' first
    | with_reducible assumption
    | with_reducible apply offerAgain_inv
    | with_reducible apply sendNotice_inv
    | with_reducible refine Inv.made ?_ rfl rfl rfl rfl rfl rfl

theorem startingFails_inv {d : Dev} (h : Inv d) : Inv (Dev.startingFails d) := by
  unfold Dev.startingFails
  try dsimp only
  repeat' first
    | with_reducible assumption
    | with_reducible apply onXp_inv
    | with_reducible refine Inv.made ?_ rfl rfl rfl rfl rfl rfl

theorem retryFailed_inv {d : Dev} (h : Inv d) : Inv (Dev.retryFailed d) := by
  unfold Dev.retryFailed
  try dsimp only
  repeat' first
    | with_reducible assumption
    | with_reducible apply onXp_inv

theorem pixelsFailed_inv {n : Nat} {d : Dev} (h : Inv d) : Inv (Dev.pixelsFailed n d) := by
  unfold Dev.pixelsFailed
  try dsimp only
  repeat' first
    | with_reducible assumption
    | with_reducible apply failPosting_inv
    | split

theorem fails_inv {r : Requester} {a : Access} {d : Dev} (h : Inv d) : Inv (Dev.fails r a d) := by
  unfold Dev.fails
  try dsimp only
  repeat' first
    | with_reducible assumption
    | with_reducible apply startingFails_inv
    | with_reducible apply enterStall_inv
    | with_reducible apply onXp_inv
    | with_reducible apply retryFailed_inv
    | split

theorem refuseAccess_inv {r : Requester} {a : Access} {d : Dev} (h : Inv d) : Inv (Dev.refuseAccess r a d) := by
  unfold Dev.refuseAccess
  try dsimp only
  repeat' first
    | with_reducible assumption
    | with_reducible apply pixelsFailed_inv
    | with_reducible apply fails_inv
    | split

theorem windowFailure_inv {d : Dev} (h : Inv d) : Inv (Dev.windowFailure d) := by
  unfold Dev.windowFailure
  try dsimp only
  repeat' first
    | with_reducible assumption
    | with_reducible apply fails_inv
    | with_reducible apply setEngine_inv
    | with_reducible apply serve_inv
    | split

theorem grant_inv {d : Dev} (h : Inv d) : Inv (Dev.grant d) := by
  unfold Dev.grant
  try dsimp only
  repeat' first
    | with_reducible assumption
    | with_reducible apply serve_inv
    | with_reducible apply issue_inv
    | with_reducible apply refuseAccess_inv
    | split

theorem stallRetry_inv {d : Dev} (h : Inv d) : Inv (Dev.stallRetry d) := by
  unfold Dev.stallRetry
  try dsimp only
  repeat' first
    | with_reducible assumption
    | with_reducible apply onXp_inv
    | split
    | with_reducible refine Inv.made ?_ rfl rfl rfl rfl rfl rfl

theorem reofferLog_inv {d : Dev} (h : Inv d) : Inv (Dev.reofferLog d) := by
  unfold Dev.reofferLog
  split
  · exact setOffer_inv h
  · exact h

theorem stallRetryComplete_inv {v : Option W16} {d : Dev} (h : Inv d) : Inv (Dev.stallRetryComplete v d) := by
  unfold Dev.stallRetryComplete
  try dsimp only
  repeat' first
    | with_reducible assumption
    | with_reducible apply reofferLog_inv
    | with_reducible apply setEngine_inv
    | with_reducible apply onXp_inv
    | with_reducible apply retryFailed_inv
    | split
    | with_reducible refine Inv.made ?_ rfl rfl rfl rfl rfl rfl

theorem enterStarting_inv {d : Dev} (h : Inv d) : Inv (Dev.enterStarting d) := by
  have h' : Inv { d with pub := Pub.reset } :=
    ⟨h.queues, h.staging, h.log, List.length_replicate, h.serials, h.memory⟩
  unfold Dev.enterStarting
  dsimp only
  split
  · exact startingFails_inv (h'.same rfl rfl rfl rfl rfl rfl)
  · exact h'.same rfl rfl rfl rfl rfl rfl

theorem layoutRead_inv {v : Option W16} {d : Dev} (h : Inv d) : Inv (Dev.layoutRead v d) := by
  unfold Dev.layoutRead
  try dsimp only
  repeat' first
    | with_reducible assumption
    | with_reducible apply onXp_inv
    | with_reducible apply startingFails_inv
    | split
    | with_reducible refine Inv.made ?_ rfl rfl rfl rfl rfl rfl

theorem enterRunning_inv {d : Dev} (h : Inv d) : Inv (Dev.enterRunning d) := by
  unfold Dev.enterRunning
  try dsimp only
  repeat' first
    | with_reducible assumption
    | split
    | with_reducible refine Inv.made ?_ rfl rfl rfl rfl rfl rfl

theorem resetKeeping_inv {d : Dev} (h : Inv d) : Inv (Dev.resetKeeping d) := reset_inv rfl rfl rfl List.length_replicate List.length_replicate h.memory

theorem functionReset_inv {d : Dev} (h : Inv d) : Inv (Dev.functionReset d) := resetKeeping_inv h

theorem powerOnReset_inv {d : Dev} (h : Inv d) : Inv (Dev.powerOnReset d) := (resetKeeping_inv h).same rfl rfl rfl rfl rfl rfl

theorem enterDisabled_inv {d : Dev} (h : Inv d) : Inv (Dev.enterDisabled d) := by
  unfold Dev.enterDisabled
  try dsimp only
  repeat' first
    | with_reducible assumption
    | with_reducible apply resetKeeping_inv
    | with_reducible refine Inv.made ?_ rfl rfl rfl rfl rfl rfl

theorem enableOn_inv {d : Dev} (h : Inv d) : Inv (Dev.enableOn d) := by
  unfold Dev.enableOn
  try dsimp only
  repeat' first
    | with_reducible assumption
    | with_reducible apply onXp_inv
    | with_reducible apply enterStarting_inv
    | split
    | with_reducible refine Inv.made ?_ rfl rfl rfl rfl rfl rfl

theorem enableOff_inv {d : Dev} (h : Inv d) : Inv (Dev.enableOff d) := by
  unfold Dev.enableOff
  try dsimp only
  repeat' first
    | with_reducible assumption
    | with_reducible apply onXp_inv
    | with_reducible apply disableRequest_inv
    | split
    | with_reducible refine Inv.made ?_ rfl rfl rfl rfl rfl rfl

theorem sequenceEnded_inv {d : Dev} (h : Inv d) : Inv (Dev.sequenceEnded d) := by
  unfold Dev.sequenceEnded
  try dsimp only
  repeat' first
    | with_reducible assumption
    | split
    | with_reducible refine Inv.made ?_ rfl rfl rfl rfl rfl rfl

theorem finalDrainEnd_inv {d : Dev} (h : Inv d) : Inv (Dev.finalDrainEnd d) := by
  unfold Dev.finalDrainEnd
  try dsimp only
  repeat' first
    | with_reducible assumption
    | with_reducible apply enterDisabled_inv
    | with_reducible apply enterStarting_inv
    | split

theorem setNoticeOn_inv {on : Bool} {d : Dev} (h : Inv d) : Inv (Dev.setNoticeOn on d) := by
  unfold Dev.setNoticeOn
  try dsimp only
  repeat' first
    | with_reducible assumption
    | with_reducible apply onXp_inv
    | with_reducible refine Inv.made ?_ rfl rfl rfl rfl rfl rfl

theorem setNoticeMask_inv {on : Bool} {d : Dev} (h : Inv d) : Inv (Dev.setNoticeMask on d) := by
  unfold Dev.setNoticeMask
  try dsimp only
  repeat' first
    | with_reducible assumption
    | with_reducible apply onXp_inv
    | with_reducible refine Inv.made ?_ rfl rfl rfl rfl rfl rfl

theorem nudge_inv {d : Dev} (h : Inv d) : Inv (Dev.nudge d) := by
  unfold Dev.nudge
  try dsimp only
  repeat' first
    | with_reducible assumption
    | with_reducible apply onXp_inv
    | split
    | with_reducible refine Inv.made ?_ rfl rfl rfl rfl rfl rfl

theorem setPass_inv {p : Option ScanPass} {d : Dev} (h : Inv d) : Inv (Dev.setPass p d) := by
  unfold Dev.setPass
  try dsimp only
  repeat' first
    | with_reducible assumption
    | with_reducible apply onIr_inv
    | with_reducible refine Inv.made ?_ rfl rfl rfl rfl rfl rfl

theorem nextRecordOf_inv {r : IntentRec} {d : Dev} (h : Inv d) : Inv (Dev.nextRecordOf r d) := by
  unfold Dev.nextRecordOf
  try dsimp only
  repeat' first
    | with_reducible assumption
    | with_reducible apply setPass_inv
    | with_reducible apply onIr_inv
    | split
    | with_reducible refine Inv.made ?_ rfl rfl rfl rfl rfl rfl

theorem scanIntent_inv {d : Dev} (h : Inv d) : Inv (Dev.scanIntent d) := by
  unfold Dev.scanIntent
  try dsimp only
  repeat' first
    | with_reducible assumption
    | with_reducible apply onIr_inv
    | split
    | with_reducible refine Inv.made ?_ rfl rfl rfl rfl rfl rfl

theorem takeGlobalSc_inv {g : GlobalIntent} {first : Bool} {d : Dev} (h : Inv d) : Inv (Dev.takeGlobalSc g first d) := by
  unfold Dev.takeGlobalSc
  try dsimp only
  repeat' first
    | with_reducible assumption
    | with_reducible apply onSc_inv
    | with_reducible apply releaseRequest_inv
    | with_reducible refine when_inv ?_ (fun _ => ?_)
    | with_reducible refine Inv.made ?_ rfl rfl rfl rfl rfl rfl

theorem takeGlobalCm_inv {g : GlobalIntent} {first : Bool} {d : Dev} (h : Inv d) : Inv (Dev.takeGlobalCm g first d) := by
  unfold Dev.takeGlobalCm
  try dsimp only
  repeat' first
    | with_reducible assumption
    | with_reducible apply chainRetry_inv
    | with_reducible apply locateRequest_inv
    | with_reducible refine onCm_inv ?_ rfl
    | with_reducible refine when_inv ?_ (fun _ => ?_)
    | with_reducible refine Inv.made ?_ rfl rfl rfl rfl rfl rfl

theorem takeGlobalPcu_inv {g : GlobalIntent} {d : Dev} (h : Inv d) : Inv (Dev.takeGlobalPcu g d) := by
  unfold Dev.takeGlobalPcu
  try dsimp only
  repeat' first
    | with_reducible assumption
    | with_reducible apply onPcu_inv
    | with_reducible apply supplyCause_inv
    | with_reducible refine when_inv ?_ (fun _ => ?_)
    | with_reducible refine Inv.made ?_ rfl rfl rfl rfl rfl rfl

theorem takeGlobalSlu_inv {g : GlobalIntent} {d : Dev} (h : Inv d) : Inv (Dev.takeGlobalSlu g d) := by
  unfold Dev.takeGlobalSlu
  try dsimp only
  repeat' first
    | with_reducible assumption
    | with_reducible apply onLine_inv
    | with_reducible apply placeLines_inv
    | with_reducible refine when_inv ?_ (fun _ => ?_)
    | with_reducible refine Inv.foldl ?_ (fun _ _ _ => ?_)
    | with_reducible refine Inv.made ?_ rfl rfl rfl rfl rfl rfl

theorem takeGlobalSerials_inv {g : GlobalIntent} {first : Bool} {d : Dev} (h : Inv d) : Inv (Dev.takeGlobalSerials g first d) := by
  unfold Dev.takeGlobalSerials
  try dsimp only
  repeat' first
    | with_reducible assumption
    | with_reducible apply takeGlobalSc_inv
    | with_reducible apply takeGlobalCm_inv
    | split
    | with_reducible refine Inv.made ?_ rfl rfl rfl rfl rfl rfl

theorem globalApplied_inv {gen : W32} {refused : Bool} {field : Byte} {d : Dev} (h : Inv d) : Inv (Dev.globalApplied gen refused field d) := by
  unfold Dev.globalApplied
  try dsimp only
  repeat' first
    | with_reducible assumption
    | with_reducible apply onIr_inv
    | with_reducible refine onPub_inv ?_ rfl
    | with_reducible refine Inv.made ?_ rfl rfl rfl rfl rfl rfl

theorem acceptGlobal_inv {gen : W32} {g : GlobalIntent} {d : Dev} (h : Inv d) : Inv (Dev.acceptGlobal gen g d) := by
  unfold Dev.acceptGlobal
  try dsimp only
  repeat' first
    | with_reducible assumption
    | with_reducible apply globalApplied_inv
    | with_reducible apply onIr_inv
    | with_reducible apply setThreshold_inv
    | with_reducible apply onXp_inv
    | with_reducible apply takeGlobalPcu_inv
    | with_reducible apply takeGlobalSlu_inv
    | with_reducible apply takeGlobalSerials_inv
    | with_reducible refine Inv.made ?_ rfl rfl rfl rfl rfl rfl

theorem takeGlobal_inv {gen : W32} {data : BitVec 320} {d : Dev} (h : Inv d) : Inv (Dev.takeGlobal gen data d) := by
  unfold Dev.takeGlobal
  try dsimp only
  repeat' first
    | with_reducible assumption
    | with_reducible apply globalApplied_inv
    | with_reducible apply acceptGlobal_inv
    | split

theorem requestLevels_inv {k : Pos} {n : NodeIntent} {d : Dev} (h : Inv d) : Inv (Dev.requestLevels k n d) := by
  unfold Dev.requestLevels
  try dsimp only
  repeat' first
    | with_reducible assumption
    | with_reducible apply onPcu_inv
    | with_reducible refine Inv.made ?_ rfl rfl rfl rfl rfl rfl

theorem pendRecord_inv {k : Pos} {gen : W32} {d : Dev} (h : Inv d) : Inv (Dev.pendRecord k gen d) := by
  unfold Dev.pendRecord
  try dsimp only
  repeat' first
    | with_reducible assumption
    | with_reducible apply onIrPos_inv
    | with_reducible apply wantApplied_inv
    | with_reducible refine Inv.made ?_ rfl rfl rfl rfl rfl rfl

theorem acceptNode_inv {k : Pos} {gen : W32} {n : NodeIntent} {d : Dev} (h : Inv d) : Inv (Dev.acceptNode k gen n d) := by
  unfold Dev.acceptNode
  try dsimp only
  repeat' first
    | with_reducible assumption
    | with_reducible apply onIrPos_inv
    | with_reducible apply requestLevels_inv
    | with_reducible apply startPush_inv
    | with_reducible apply pendRecord_inv
    | split
    | with_reducible refine Inv.made ?_ rfl rfl rfl rfl rfl rfl

theorem refuseNode_inv {k : Pos} {gen : W32} {field : Byte} {d : Dev} (h : Inv d) : Inv (Dev.refuseNode k gen field d) := by
  unfold Dev.refuseNode
  try dsimp only
  repeat' first
    | with_reducible assumption
    | with_reducible apply onIrPos_inv
    | with_reducible apply wantApplied_inv
    | with_reducible refine Inv.made ?_ rfl rfl rfl rfl rfl rfl

theorem takeNode_inv {k : Pos} {gen : W32} {data : BitVec 112} {d : Dev} (h : Inv d) : Inv (Dev.takeNode k gen data d) := by
  unfold Dev.takeNode
  try dsimp only
  repeat' first
    | with_reducible assumption
    | with_reducible apply refuseNode_inv
    | with_reducible apply acceptNode_inv
    | split

theorem takeRecordOf_inv {p : ScanPass} {d : Dev} (h : Inv d) : Inv (Dev.takeRecordOf p d) := by
  unfold Dev.takeRecordOf
  try dsimp only
  repeat' first
    | with_reducible assumption
    | with_reducible apply takeGlobal_inv
    | with_reducible apply takeNode_inv
    | split

theorem closeRead_inv {p : ScanPass} {g : W32} {d : Dev} (h : Inv d) : Inv (Dev.closeRead p g d) := by
  unfold Dev.closeRead
  try dsimp only
  repeat' first
    | with_reducible assumption
    | with_reducible apply nextRecordOf_inv
    | with_reducible apply setPass_inv
    | split
    | with_reducible refine Inv.made ?_ rfl rfl rfl rfl rfl rfl

theorem openRead_inv {p : ScanPass} {g : W32} {d : Dev} (h : Inv d) : Inv (Dev.openRead p g d) := by
  unfold Dev.openRead
  try dsimp only
  repeat' first
    | with_reducible assumption
    | with_reducible apply nextRecordOf_inv
    | with_reducible apply takeRecordOf_inv
    | with_reducible apply onIr_inv
    | with_reducible refine onPub_inv ?_ rfl
    | split
    | with_reducible refine Inv.made ?_ rfl rfl rfl rfl rfl rfl

theorem passRead_inv {p : ScanPass} {x : IntentData} {d : Dev} (h : Inv d) : Inv (Dev.passRead p x d) := by
  unfold Dev.passRead
  try dsimp only
  repeat' first
    | with_reducible assumption
    | with_reducible apply closeRead_inv
    | with_reducible apply setPass_inv
    | with_reducible apply openRead_inv
    | split
    | with_reducible refine Inv.made ?_ rfl rfl rfl rfl rfl rfl

theorem intentRead_inv {x : IntentData} {d : Dev} (h : Inv d) : Inv (Dev.intentRead x d) := by
  unfold Dev.intentRead
  try dsimp only
  repeat' first
    | with_reducible assumption
    | with_reducible apply setEngine_inv
    | with_reducible apply passRead_inv
    | split

theorem setCursor_inv {c : Option (BitVec 6)} {phase : CursorPhase} {d : Dev} (h : Inv d) : Inv (Dev.setCursor c phase d) := by
  unfold Dev.setCursor
  try dsimp only
  repeat' first
    | with_reducible assumption
    | with_reducible refine onDtu_inv ?_ rfl
    | with_reducible refine onPub_inv ?_ rfl
    | with_reducible refine Inv.made ?_ rfl rfl rfl rfl rfl rfl

theorem moveCursor_inv {i : Byte} {d : Dev} (h : Inv d) : Inv (Dev.moveCursor i d) := by
  unfold Dev.moveCursor
  try dsimp only
  repeat' first
    | with_reducible assumption
    | with_reducible apply setCursor_inv
    | split

theorem decide_inv {o : OutcomeWrite} {d : Dev} (h : Inv d) : Inv (Dev.decide o d) := by
  unfold Dev.decide
  try dsimp only
  repeat' first
    | with_reducible assumption
    | with_reducible refine onDtu_inv ?_ rfl
    | with_reducible refine Inv.made ?_ rfl rfl rfl rfl rfl rfl

theorem takePosting_inv {u : UpdateRecord} {d : Dev} (h : Inv d) : Inv (Dev.takePosting u d) := by
  unfold Dev.takePosting
  try dsimp only
  repeat' first
    | with_reducible assumption
    | with_reducible apply setCursor_inv
    | with_reducible apply decide_inv
    | with_reducible apply beginBatch_inv
    | with_reducible refine onDtu_inv ?_ rfl
    | split
    | with_reducible refine Inv.made ?_ rfl rfl rfl rfl rfl rfl

theorem decideRecord_inv {c : BitVec 6} {u : UpdateRecord} {d : Dev} (h : Inv d) : Inv (Dev.decideRecord c u d) := by
  unfold Dev.decideRecord
  try dsimp only
  repeat' first
    | with_reducible assumption
    | with_reducible apply withdraw_inv
    | with_reducible apply decide_inv
    | with_reducible apply takePosting_inv
    | split

theorem cursorRead_inv {x : CursorData} {d : Dev} (h : Inv d) : Inv (Dev.cursorRead x d) := by
  unfold Dev.cursorRead
  try dsimp only
  repeat' first
    | with_reducible assumption
    | with_reducible apply setEngine_inv
    | with_reducible apply moveCursor_inv
    | with_reducible apply decideRecord_inv
    | split

theorem pixelRead_inv {tile : Option (BitVec 4096)} {d : Dev} (h : Inv d) : Inv (Dev.pixelRead tile d) := by
  unfold Dev.pixelRead
  try dsimp only
  repeat' first
    | with_reducible assumption
    | with_reducible apply pixelsFailed_inv
    | with_reducible apply setEngine_inv
    | with_reducible apply onPosting_inv
    | split
    | with_reducible refine Inv.made ?_ rfl rfl rfl rfl rfl rfl

theorem outcomeWritten_inv {d : Dev} (h : Inv d) : Inv (Dev.outcomeWritten d) := by
  unfold Dev.outcomeWritten
  split
  · next c o _ _ =>
    have h1 := writeWindow_inv (o := updateOffset c + 0x3C) (bs := le16 o.serial ++ zeros 2) (setEngine_inv (a := none) h)
    have h2 : Inv (((d.setEngine none).writeWindow (updateOffset c + 0x3C) (le16 o.serial ++ zeros 2)).onDtu fun t =>
        { t with outcome := none, readDue := true, serials := t.serials.set c.toNat o.serial }) :=
      ⟨h1.queues, h1.staging, h1.log, h1.slots, by simp only [Dev.onDtu, List.length_set]; exact h1.serials, h1.memory⟩
    exact bump_inv (setCursor_inv h2)
  · exact h

theorem setInvalid_inv {b : Bool} {d : Dev} (h : Inv d) : Inv (Dev.setInvalid b d) := by
  unfold Dev.setInvalid
  try dsimp only
  repeat' first
    | with_reducible assumption
    | with_reducible refine onIc_inv ?_ rfl
    | with_reducible refine onPub_inv ?_ rfl
    | split
    | with_reducible refine Inv.made ?_ rfl rfl rfl rfl rfl rfl

theorem takenRead_inv {t : W32} {d : Dev} (h : Inv d) : Inv (Dev.takenRead t d) := by
  unfold Dev.takenRead
  try dsimp only
  repeat' first
    | with_reducible assumption
    | with_reducible apply setEngine_inv
    | with_reducible apply setInvalid_inv
    | with_reducible refine onIc_inv ?_ rfl
    | split
    | with_reducible refine Inv.made ?_ rfl rfl rfl rfl rfl rfl

theorem journalWritten_inv {d : Dev} (h : Inv d) : Inv (Dev.journalWritten d) := by
  unfold Dev.journalWritten
  split
  · have h1 := setEngine_inv (a := none) h
    dsimp only
    split
    · exact h1
    · next i rest e =>
      have h2 := writeWindow_inv (o := journalOffset (d.setEngine none).ic.writeCount) (bs := i.bytes) h1
      have hs := h1.staging
      rw [e] at hs
      exact ⟨h2.queues, by simp only [List.length_cons] at hs; show rest.length ≤ 32; omega,
        h2.log, h2.slots, h2.serials, h2.memory⟩
  · exact h

theorem countWritten_inv {d : Dev} (h : Inv d) : Inv (Dev.countWritten d) := by
  unfold Dev.countWritten
  try dsimp only
  repeat' first
    | with_reducible assumption
    | with_reducible apply setEngine_inv
    | with_reducible apply writeWindow_inv
    | with_reducible apply bump_inv
    | with_reducible refine onIc_inv ?_ rfl
    | split
    | with_reducible refine Inv.made ?_ rfl rfl rfl rfl rfl rfl

theorem entryClosed_inv {d : Dev} (h : Inv d) : Inv (Dev.entryClosed d) := by
  unfold Dev.entryClosed
  try dsimp only
  repeat' first
    | with_reducible assumption
    | with_reducible apply setEngine_inv
    | with_reducible apply issueClose_inv
    | with_reducible apply bump_inv
    | with_reducible refine onPub_inv ?_ rfl
    | split
    | with_reducible refine Inv.made ?_ rfl rfl rfl rfl rfl rfl

theorem appliedClosed_inv {d : Dev} (h : Inv d) : Inv (Dev.appliedClosed d) := by
  unfold Dev.appliedClosed
  try dsimp only
  repeat' first
    | with_reducible assumption
    | with_reducible apply setEngine_inv
    | with_reducible apply issueClose_inv
    | with_reducible apply bump_inv
    | with_reducible apply globalApplied_inv
    | split

theorem totalWritten_inv {d : Dev} (h : Inv d) : Inv (Dev.totalWritten d) := by
  unfold Dev.totalWritten
  try dsimp only
  repeat' first
    | with_reducible assumption
    | with_reducible apply setEngine_inv
    | with_reducible apply writeWindow_inv
    | with_reducible apply bumpBy_inv
    | with_reducible refine onCm_inv ?_ rfl
    | split
    | with_reducible refine Inv.made ?_ rfl rfl rfl rfl rfl rfl

theorem scanCounters_inv {d : Dev} (h : Inv d) : Inv (Dev.scanCounters d) := by
  unfold Dev.scanCounters
  try dsimp only
  repeat' first
    | with_reducible assumption
    | with_reducible apply onSec_inv
    | with_reducible refine when_inv ?_ (fun _ => ?_)
    | with_reducible refine Inv.foldl ?_ (fun _ _ _ => ?_)

theorem scan_inv {d : Dev} (h : Inv d) : Inv (Dev.scan d) := by
  unfold Dev.scan
  try dsimp only
  repeat' first
    | with_reducible assumption
    | with_reducible apply onXp_inv
    | with_reducible apply scanIntent_inv
    | with_reducible apply scanCounters_inv
    | with_reducible refine onIc_inv ?_ rfl
    | with_reducible refine onDtu_inv ?_ rfl
    | split
    | with_reducible refine Inv.made ?_ rfl rfl rfl rfl rfl rfl

end Sys2Proof.Safety
end

