-- ==== Sys2Proof/Laws/KeptStep.lean ====
section
/-! SUPPORT. The bounds of Safety.Inv are kept by the boundary and the small commands: one lemma per operation. -/
namespace Sys2Proof.Safety

open Sys2Proof.Machine Sys2Proof.Laws

theorem allocateAfter_inv {old : Dev} {d : Dev} (h : Inv d) : Inv (Dev.allocateAfter old d) := by
  unfold Dev.allocateAfter
  try dsimp only
  repeat' first
    | with_reducible assumption
    | with_reducible apply allocate_inv
    | split

theorem unblock_inv {k : Pos} {d : Dev} (h : Inv d) : Inv (Dev.unblock k d) := by
  unfold Dev.unblock
  try dsimp only
  repeat' first
    | with_reducible assumption
    | with_reducible apply onIrPos_inv
    | split
    | with_reducible refine Inv.made ?_ rfl rfl rfl rfl rfl rfl

theorem followLost_inv {d : Dev} (h : Inv d) : Inv (Dev.followLost d) := by
  unfold Dev.followLost
  try dsimp only
  repeat' first
    | with_reducible assumption
    | with_reducible refine onCm_inv ?_ rfl
    | split
    | with_reducible refine Inv.made ?_ rfl rfl rfl rfl rfl rfl

theorem wantSec_inv {id : SecId} {d : Dev} (h : Inv d) : Inv (Dev.wantSec id d) := by
  unfold Dev.wantSec
  try dsimp only
  repeat' first
    | with_reducible assumption
    | with_reducible apply onSec_inv

theorem wantSections_inv {old : Dev} {d : Dev} (h : Inv d) : Inv (Dev.wantSections old d) := by
  unfold Dev.wantSections
  try dsimp only
  repeat' first
    | with_reducible assumption
    | with_reducible apply wantSec_inv
    | with_reducible refine when_inv ?_ (fun _ => ?_)
    | with_reducible refine Inv.foldl ?_ (fun _ _ _ => ?_)

theorem wantCursor_inv {old : Dev} {d : Dev} (h : Inv d) : Inv (Dev.wantCursor old d) := by
  unfold Dev.wantCursor
  try dsimp only
  repeat' first
    | with_reducible assumption
    | with_reducible refine onPub_inv ?_ rfl
    | with_reducible refine Inv.made ?_ rfl rfl rfl rfl rfl rfl

theorem settle_inv {old : Dev} {d : Dev} (h : Inv d) : Inv (Dev.settle old d) := by
  unfold Dev.settle
  try dsimp only
  repeat' first
    | with_reducible assumption
    | with_reducible apply offerAll_inv
    | with_reducible apply allocateAfter_inv
    | with_reducible apply unblock_inv
    | with_reducible apply followLost_inv
    | with_reducible apply wantCursor_inv
    | with_reducible apply wantSections_inv
    | with_reducible refine Inv.foldl ?_ (fun _ _ _ => ?_)

theorem frontierTimer_inv {d : Dev} (h : Inv d) : Inv (Dev.frontierTimer d) := by
  unfold Dev.frontierTimer
  try dsimp only
  repeat' first
    | with_reducible assumption
    | with_reducible apply settle_inv
    | with_reducible apply frontierExpiry_inv
    | split

theorem disable_inv {d : Dev} (h : Inv d) : Inv (Dev.disable d) := by
  unfold Dev.disable
  try dsimp only
  repeat' first
    | with_reducible assumption
    | with_reducible apply settle_inv
    | with_reducible apply enableOff_inv

theorem writeControl_inv {v : W32} {d : Dev} (h : Inv d) : Inv (Dev.writeControl v d) := by
  unfold Dev.writeControl
  try dsimp only
  repeat' first
    | with_reducible assumption
    | with_reducible apply functionReset_inv
    | with_reducible apply setNoticeOn_inv
    | with_reducible apply setNoticeMask_inv
    | with_reducible apply enableOn_inv
    | with_reducible apply disable_inv
    | split

theorem writeReg_inv {offset : BitVec 12} {v : W32} {d : Dev} (h : Inv d) : Inv (Dev.writeReg offset v d) := by
  unfold Dev.writeReg
  try dsimp only
  repeat' first
    | with_reducible assumption
    | with_reducible apply writeControl_inv
    | with_reducible apply nudge_inv
    | with_reducible apply onXp_inv
    | split
    | with_reducible refine Inv.made ?_ rfl rfl rfl rfl rfl rfl

theorem walkProbed_inv {k : Pos} {d : Dev} (h : Inv d) : Inv (Dev.walkProbed k d) := by
  unfold Dev.walkProbed
  try dsimp only
  repeat' first
    | with_reducible assumption
    | with_reducible apply startWalk_inv
    | split

theorem endSuperframe_inv {d : Dev} (h : Inv d) : Inv (Dev.endSuperframe d) := by
  unfold Dev.endSuperframe
  try dsimp only
  repeat' first
    | with_reducible assumption
    | with_reducible apply walkProbed_inv
    | with_reducible apply closeWindows_inv
    | with_reducible apply sendBlock_inv
    | with_reducible apply sendLines_inv
    | with_reducible refine Inv.foldl ?_ (fun _ _ _ => ?_)

theorem noticeBoundary_inv {d : Dev} (h : Inv d) : Inv (Dev.noticeBoundary d) := by
  unfold Dev.noticeBoundary
  try dsimp only
  repeat' first
    | with_reducible assumption
    | with_reducible apply onXp_inv
    | with_reducible apply sendNotice_inv
    | split
    | with_reducible refine Inv.made ?_ rfl rfl rfl rfl rfl rfl

theorem advanceStamp_inv {d : Dev} (h : Inv d) : Inv (Dev.advanceStamp d) := by
  unfold Dev.advanceStamp
  try dsimp only
  repeat' first
    | with_reducible assumption
    | with_reducible refine onLe_inv ?_ rfl
    | with_reducible refine Inv.made ?_ rfl rfl rfl rfl rfl rfl

theorem swapSchedule_inv {d : Dev} (h : Inv d) : Inv (Dev.swapSchedule d) := by
  unfold Dev.swapSchedule
  try dsimp only
  repeat' first
    | with_reducible assumption
    | with_reducible refine onLe_inv ?_ rfl
    | split
    | with_reducible refine Inv.made ?_ rfl rfl rfl rfl rfl rfl

theorem scanBoundary_inv {d : Dev} (h : Inv d) : Inv (Dev.scanBoundary d) := by
  unfold Dev.scanBoundary
  try dsimp only
  repeat' first
    | with_reducible assumption
    | with_reducible apply onXp_inv
    | split
    | with_reducible refine Inv.made ?_ rfl rfl rfl rfl rfl rfl

theorem errorBoundary_inv {d : Dev} (h : Inv d) : Inv (Dev.errorBoundary d) := by
  unfold Dev.errorBoundary
  try dsimp only
  repeat' first
    | with_reducible assumption
    | with_reducible refine onLe_inv ?_ rfl
    | with_reducible refine Inv.made ?_ rfl rfl rfl rfl rfl rfl

theorem tickSc_inv {d : Dev} (h : Inv d) : Inv (Dev.tickSc d) := by
  unfold Dev.tickSc
  try dsimp only
  repeat' first
    | with_reducible assumption
    | with_reducible apply onSc_inv
    | split
    | with_reducible refine Inv.made ?_ rfl rfl rfl rfl rfl rfl

theorem tickCm_inv {d : Dev} (h : Inv d) : Inv (Dev.tickCm d) := by
  unfold Dev.tickCm
  try dsimp only
  repeat' first
    | with_reducible assumption
    | with_reducible refine onCm_inv ?_ rfl
    | with_reducible refine Inv.made ?_ rfl rfl rfl rfl rfl rfl

theorem tickIr_inv {d : Dev} (h : Inv d) : Inv (Dev.tickIr d) := by
  unfold Dev.tickIr
  try dsimp only
  repeat' first
    | with_reducible assumption
    | with_reducible apply onIr_inv
    | with_reducible refine Inv.made ?_ rfl rfl rfl rfl rfl rfl

theorem tickPcu_inv {d : Dev} (h : Inv d) : Inv (Dev.tickPcu d) := by
  unfold Dev.tickPcu
  try dsimp only
  repeat' first
    | with_reducible assumption
    | with_reducible apply onPcu_inv
    | split
    | with_reducible refine Inv.made ?_ rfl rfl rfl rfl rfl rfl

theorem tickIc_inv {d : Dev} (h : Inv d) : Inv (Dev.tickIc d) := by
  unfold Dev.tickIc
  try dsimp only
  repeat' first
    | with_reducible assumption
    | with_reducible refine onIc_inv ?_ rfl
    | with_reducible refine Inv.made ?_ rfl rfl rfl rfl rfl rfl

theorem tickDtu_inv {d : Dev} (h : Inv d) : Inv (Dev.tickDtu d) := by
  unfold Dev.tickDtu
  try dsimp only
  repeat' first
    | with_reducible assumption
    | with_reducible apply onPosting_inv
    | split
    | with_reducible refine Inv.made ?_ rfl rfl rfl rfl rfl rfl

theorem tickAll_inv {d : Dev} (h : Inv d) : Inv (Dev.tickAll d) := by
  unfold Dev.tickAll
  try dsimp only
  repeat' first
    | with_reducible assumption
    | with_reducible apply tickSc_inv
    | with_reducible apply tickCm_inv
    | with_reducible apply tickIr_inv
    | with_reducible apply tickPcu_inv
    | with_reducible apply tickIc_inv

theorem resumeAtOnce_inv {d : Dev} (h : Inv d) : Inv (Dev.resumeAtOnce d) := by
  unfold Dev.resumeAtOnce
  try dsimp only
  repeat' first
    | with_reducible assumption
    | with_reducible apply queueResume_inv
    | with_reducible refine onCm_inv ?_ rfl
    | split
    | with_reducible refine Inv.made ?_ rfl rfl rfl rfl rfl rfl

theorem traffic_inv {d : Dev} (h : Inv d) : Inv (Dev.traffic d) := by
  unfold Dev.traffic
  try dsimp only
  repeat' first
    | with_reducible assumption
    | with_reducible apply sendTraffic_inv
    | with_reducible apply sendNothing_inv
    | split

theorem newSuperframe_inv {d : Dev} (h : Inv d) : Inv (Dev.newSuperframe d) := by
  unfold Dev.newSuperframe
  try dsimp only
  repeat' first
    | with_reducible assumption
    | with_reducible apply endSuperframe_inv
    | with_reducible apply noticeBoundary_inv
    | with_reducible apply advanceStamp_inv
    | with_reducible apply swapSchedule_inv
    | with_reducible apply scanBoundary_inv
    | with_reducible apply errorBoundary_inv
    | with_reducible apply tickAll_inv

theorem boundary_inv {d : Dev} (h : Inv d) : Inv (Dev.boundary d) := by
  unfold Dev.boundary
  try dsimp only
  repeat' first
    | with_reducible assumption
    | with_reducible apply newSuperframe_inv
    | with_reducible apply traffic_inv
    | with_reducible apply tickDtu_inv
    | with_reducible apply resumeAtOnce_inv

theorem superframe_inv {d : Dev} (h : Inv d) : Inv (Dev.superframe d) := by
  unfold Dev.superframe
  try dsimp only
  repeat' first
    | with_reducible assumption
    | with_reducible apply enterStarting_inv
    | with_reducible apply settle_inv
    | with_reducible apply boundary_inv
    | split

theorem reoffer_inv {o : QueueOffer} {d : Dev} (h : Inv d) : Inv (Dev.reoffer o d) := by
  unfold Dev.reoffer
  split
  · split <;> next e => first | exact keepOffer_inv (submitted_inv h e) | exact submitted_inv h e
  · exact configuringCheck_inv (pushStep_inv h)
  · exact queueSupply_inv h
  · split
    · exact queueBlock_inv h
    · exact h

theorem queueReoffer_inv {d : Dev} (h : Inv d) : Inv (Dev.queueReoffer d) := by
  unfold Dev.queueReoffer
  try dsimp only
  repeat' first
    | with_reducible assumption
    | with_reducible apply reoffer_inv
    | split
    | with_reducible refine Inv.made ?_ rfl rfl rfl rfl rfl rfl

theorem answerIn_inv {w : Window} {frame : Option (List Byte)} {d : Dev} (h : Inv d) : Inv (Dev.answerIn w frame d) := by
  unfold Dev.answerIn
  try dsimp only
  repeat' first
    | with_reducible assumption
    | with_reducible apply answerWindow_inv
    | with_reducible apply probeAnswer_inv
    | split

theorem lossReport_inv {k : Pos} {d : Dev} (h : Inv d) : Inv (Dev.lossReport k d) := by
  unfold Dev.lossReport
  try dsimp only
  repeat' first
    | with_reducible assumption
    | with_reducible apply takeLoss_inv
    | with_reducible refine onLe_inv ?_ rfl
    | split
    | with_reducible refine Inv.made ?_ rfl rfl rfl rfl rfl rfl

theorem interruptionReport_inv {d : Dev} (h : Inv d) : Inv (Dev.interruptionReport d) := by
  unfold Dev.interruptionReport
  try dsimp only
  repeat' first
    | with_reducible assumption
    | with_reducible apply undock_inv
    | with_reducible apply beginHold_inv
    | with_reducible refine onLe_inv ?_ rfl
    | split
    | with_reducible refine Inv.made ?_ rfl rfl rfl rfl rfl rfl

theorem errorWindowEnd_inv {d : Dev} (h : Inv d) : Inv (Dev.errorWindowEnd d) := by
  unfold Dev.errorWindowEnd
  try dsimp only
  repeat' first
    | with_reducible assumption
    | with_reducible refine onLe_inv ?_ rfl
    | split

theorem probeResult_inv {r : CtrlResult} {code : ResultCode} {d : Dev} (h : Inv d) : Inv (Dev.probeResult r code d) := by
  unfold Dev.probeResult
  try dsimp only
  repeat' first
    | with_reducible assumption
    | with_reducible apply cradleProbed_inv
    | with_reducible apply probeTaken_inv
    | with_reducible apply probeFailed_inv
    | split

theorem readDone_inv {r : CtrlResult} {code : ResultCode} {d : Dev} (h : Inv d) : Inv (Dev.readDone r code d) := by
  unfold Dev.readDone
  try dsimp only
  repeat' first
    | with_reducible assumption
    | with_reducible apply readResult_inv
    | split

theorem setDone_inv {r : CtrlResult} {code : ResultCode} {d : Dev} (h : Inv d) : Inv (Dev.setDone r code d) := by
  unfold Dev.setDone
  try dsimp only
  repeat' first
    | with_reducible assumption
    | with_reducible apply sessionResult_inv
    | with_reducible apply irSetResult_inv
    | with_reducible apply linesResult_inv
    | with_reducible apply sendLines_inv
    | split

theorem segmentDone_inv {r : CtrlResult} {code : ResultCode} {d : Dev} (h : Inv d) : Inv (Dev.segmentDone r code d) := by
  unfold Dev.segmentDone
  try dsimp only
  repeat' first
    | with_reducible assumption
    | with_reducible apply segmentResult_inv
    | split

theorem supplyDone_inv {r : CtrlResult} {code : ResultCode} {d : Dev} (h : Inv d) : Inv (Dev.supplyDone r code d) := by
  unfold Dev.supplyDone
  try dsimp only
  repeat' first
    | with_reducible assumption
    | with_reducible apply baseResult_inv
    | with_reducible apply contractResult_inv
    | split

theorem commitDone_inv {r : CtrlResult} {code : ResultCode} {d : Dev} (h : Inv d) : Inv (Dev.commitDone r code d) := by
  unfold Dev.commitDone
  try dsimp only
  repeat' first
    | with_reducible assumption
    | with_reducible apply commitResult_inv
    | split

theorem blockDone_inv {r : CtrlResult} {code : ResultCode} {d : Dev} (h : Inv d) : Inv (Dev.blockDone r code d) := by
  unfold Dev.blockDone
  try dsimp only
  repeat' first
    | with_reducible assumption
    | with_reducible apply blockResult_inv
    | split

theorem releaseDone_inv {r : CtrlResult} {d : Dev} (h : Inv d) : Inv (Dev.releaseDone r d) := by
  unfold Dev.releaseDone
  try dsimp only
  repeat' first
    | with_reducible assumption
    | with_reducible apply sequenceReleased_inv
    | with_reducible apply releaseReturned_inv
    | split

theorem followSense_inv {active : Bool} {d : Dev} (h : Inv d) : Inv (Dev.followSense active d) := by
  unfold Dev.followSense
  try dsimp only
  repeat' first
    | with_reducible assumption
    | with_reducible apply setDock_inv
    | split

theorem dockSense_inv {active : Bool} {d : Dev} (h : Inv d) : Inv (Dev.dockSense active d) := by
  unfold Dev.dockSense
  try dsimp only
  repeat' first
    | with_reducible assumption
    | with_reducible apply offerAll_inv
    | with_reducible apply onSc_inv
    | with_reducible apply followSense_inv
    | split

theorem senseRunReached_inv {d : Dev} (h : Inv d) : Inv (Dev.senseRunReached d) := by
  unfold Dev.senseRunReached
  try dsimp only
  repeat' first
    | with_reducible assumption
    | with_reducible apply freshDock_inv
    | with_reducible apply undock_inv
    | with_reducible apply setDock_inv
    | split

theorem bringupProbe_inv {d : Dev} (h : Inv d) : Inv (Dev.bringupProbe d) := by
  unfold Dev.bringupProbe
  try dsimp only
  repeat' first
    | with_reducible assumption
    | with_reducible apply undock_inv
    | with_reducible apply queueProbe1_inv
    | split

theorem noCradle_inv {d : Dev} (h : Inv d) : Inv (Dev.noCradle d) := by
  unfold Dev.noCradle
  try dsimp only
  repeat' first
    | with_reducible assumption
    | with_reducible apply undock_inv
    | with_reducible apply logFault_inv
    | with_reducible apply onSc_inv
    | split
    | with_reducible refine Inv.made ?_ rfl rfl rfl rfl rfl rfl

theorem holdTickDue_inv {d : Dev} (h : Inv d) : Inv (Dev.holdTickDue d) := by
  unfold Dev.holdTickDue
  try dsimp only
  repeat' first
    | with_reducible assumption
    | with_reducible apply undock_inv
    | with_reducible apply holdTick_inv
    | split

theorem holdOverExpiry_inv {d : Dev} (h : Inv d) : Inv (Dev.holdOverExpiry d) := by
  unfold Dev.holdOverExpiry
  try dsimp only
  repeat' first
    | with_reducible assumption
    | with_reducible apply undock_inv
    | split

theorem releasedTimerEnd_inv {d : Dev} (h : Inv d) : Inv (Dev.releasedTimerEnd d) := by
  unfold Dev.releasedTimerEnd
  try dsimp only
  repeat' first
    | with_reducible assumption
    | with_reducible apply freshDock_inv
    | split

theorem rederive_inv {k : Pos} {d : Dev} (h : Inv d) : Inv (Dev.rederive k d) := by
  unfold Dev.rederive
  try dsimp only
  repeat' first
    | with_reducible assumption
    | with_reducible apply startPush_inv
    | split

theorem attentionStale_inv {k : Pos} {d : Dev} (h : Inv d) : Inv (Dev.attentionStale k d) := by
  unfold Dev.attentionStale
  try dsimp only
  repeat' first
    | with_reducible assumption
    | with_reducible apply onIrPos_inv
    | with_reducible apply wantApplied_inv
    | split
    | with_reducible refine Inv.made ?_ rfl rfl rfl rfl rfl rfl

theorem lineDebounce_inv {n : Line} {d : Dev} (h : Inv d) : Inv (Dev.lineDebounce n d) := by
  unfold Dev.lineDebounce
  try dsimp only
  repeat' first
    | with_reducible assumption
    | with_reducible apply setStable_inv
    | with_reducible apply lineEffects_inv
    | with_reducible apply releasePress_inv
    | split

theorem contractTimeout_inv {d : Dev} (h : Inv d) : Inv (Dev.contractTimeout d) := by
  unfold Dev.contractTimeout
  try dsimp only
  repeat' first
    | with_reducible assumption
    | with_reducible apply logFault_inv
    | with_reducible apply refuseOffer_inv
    | split

theorem braceEnd_inv {d : Dev} (h : Inv d) : Inv (Dev.braceEnd d) := by
  unfold Dev.braceEnd
  try dsimp only
  repeat' first
    | with_reducible assumption
    | with_reducible apply onPcu_inv
    | split
    | with_reducible refine Inv.made ?_ rfl rfl rfl rfl rfl rfl

theorem goBack_inv {d : Dev} (h : Inv d) : Inv (Dev.goBack d) := by
  unfold Dev.goBack
  try dsimp only
  repeat' first
    | with_reducible assumption
    | with_reducible apply onPosting_inv
    | with_reducible apply emptyReady_inv
    | split
    | with_reducible refine Inv.made ?_ rfl rfl rfl rfl rfl rfl

theorem noProgress_inv {d : Dev} (h : Inv d) : Inv (Dev.noProgress d) := by
  unfold Dev.noProgress
  try dsimp only
  repeat' first
    | with_reducible assumption
    | with_reducible apply failPosting_inv
    | split

theorem configure_inv {c : FunctionSetup} {d : Dev} (h : Inv d) : Inv (Dev.configure c d) :=
  h.same rfl rfl rfl rfl rfl rfl

end Sys2Proof.Safety
end

