-- ==== Sys2Proof/WellFormed.lean ====
section
/-! DEFINITION. Which commands are written as the table means them. -/
namespace Sys2Proof

/-- The checks on a command's operands: REGISTER_WRITE names a whole 32-bit register of BAR0 other than CONTROL and NUDGE,
whose writes have rows of their own (R173); an ANSWER that was received has at least one byte. -/
def Instr.wf : Instr → Bool
  | .registerWrite off _ => off.toNat % 4 == 0 && off != 0x004#12 && off != 0x00C#12
  | .answer _ (some bs) => !bs.isEmpty
  | _ => true

/-- A command is well formed. -/
def Instr.WellFormed (c : Instr) : Prop := c.wf = true

end Sys2Proof
end

