-- ==== Sys2Proof/Tests/Slice0.lean ====
section
/-! SUPPORT. Tests: ill-formed commands, the CRC, small steps, and for every statement with hypotheses a state and operands that meet them, clause by clause. -/
namespace Sys2Proof.Tests

/- Each test is checked where it stands, not on a thread of its own: a thread for each takes more memory than a check has. -/
set_option Elab.async false

open Sys2Proof.Machine Sys2Proof.Safety

/-! ### Well-formedness: one ill-formed command for each check -/

theorem test_wf_offset_not_of_a_word : (Instr.registerWrite 0x012 0).wf = false := by decide
theorem test_wf_control_has_its_own_rows : (Instr.registerWrite 0x004 0).wf = false := by decide
theorem test_wf_nudge_has_its_own_row : (Instr.registerWrite 0x00C 0).wf = false := by decide
theorem test_wf_received_frame_has_a_byte : (Instr.answer .probe (some [])).wf = false := by decide
theorem test_wf_window_low : (Instr.registerWrite 0x010 0x10000).WellFormed := by unfold Instr.WellFormed; decide

/-! ### States the tests start from -/

/-- The part in a part state and a dock state, the window at 10000H, bus mastering enabled. -/
def part (p : PartState) (k : DockState) : Dev :=
  { Dev.reset with
    xp := { Xp.reset with part := p, enable := true, base := some 0x10000 }
    pcie := { Dev.reset.pcie with busMaster := true }
    sc := { Sc.reset with dock := k, session := 1, announced := true } }

def start (d : Dev) : State := { dev := d, pending := [] }

/-- An entry of a kind in a state, with a downstream port that is on. -/
def entryOf (k : Kind) (s : EntryState) : Entry :=
  { Entry.vacant with
    state := s, kind := k, seg := .on
    caps := { Caps.none with ident := some { declared := k, port := true, statusConsumer := false } } }

def cradle (s : EntryState) : Entry :=
  { entryOf .cradle s with
    caps := { (entryOf .cradle s).caps with supply := some [{ volt := 100, cur := 150, ignitionOnly := false }], lines := some 0x01 } }

def display (s : EntryState) : Entry :=
  { entryOf .display s with
    caps := { (entryOf .display s).caps with
      display := some { width := 320, height := 240, staging := 32 }
      power := some { base := 100, draws := List.replicate 15 20 } } }

def keyboard (s : EntryState) : Entry :=
  { entryOf .keyboard s with caps := { (entryOf .keyboard s).caps with keys := some { count := 8, indicators := 2, depth := 8 } } }

/-- DOCKED with cradle, display and keyboard in use, all three in the schedule. -/
def docked : Dev :=
  let d := part .running .docked
  { d with
    cm := { d.cm with table := ⟨cradle .active, display .active, keyboard .active, .vacant, .vacant, .vacant⟩ }
    le := { d.le with
      stamp := 500, current := ⟨true, true, true, false, false, false⟩, next := ⟨true, true, true, false, false, false⟩ } }

/-- One result waits. -/
def withOne (r : CtrlResult) (d : Dev) : Dev := { d with le := { d.le with results := [r] } }

def result (k : Pos) (b : Block) (p : Payload) (c : ResultCode) (data : List Byte) : CtrlResult :=
  { pos := k, sub := b, payload := p, code := c, data := data }

/-- An access is in the engine. -/
def engine (a : Access) (d : Dev) : Dev := { d with xp := { d.xp with engine := some a } }

def onEntry (k : Pos) (f : Entry → Entry) (d : Dev) : Dev := d.onEntry k f

/-- The 48 bytes of a record: post serial 5, target 2, a rectangle of 32 by 32 at the origin, stride 64. -/
def record (post withdraw : Nat) : BitVec 384 :=
  BitVec.ofNat 384 (post + 2 ^ 16 * withdraw + 2 ^ 32 * 255 + 2 ^ 40 * 2 + 2 ^ 96 * 32 + 2 ^ 112 * 32 + 2 ^ 192 * 64)

/-! ### Bytes -/

/-- CRC over "123456789" (R23). -/
theorem test_crc_check_value : crc16 [0x31, 0x32, 0x33, 0x34, 0x35, 0x36, 0x37, 0x38, 0x39] = 0x29B1#16 := by decide +kernel

/-- A READ of offset 10H to position 3 with tag 5 (R185). -/
theorem test_ctrl_bytes : (ctrlBytes .p3 5 (.read 0x10 7)).take 5 = [0x02, 0x03, 0x25, 0x01, 0x10] := by decide +kernel

/-- A node as it leaves the factory: no position, no session, an empty key buffer. -/
def newNode : Bus.Node :=
  { build := { identity := { kind := .display, vendor := 1, product := 2, revision := 3, serial := 4 }, descriptor := []
               port := true, statusConsumer := false, indicators := 0, depth := 0, staging := 32 }
    position := none, session := none, held := false, quiet := 0, holdTimer := 0, holdLimit := 1500, kept := none
    switch := .off, shorted := false, sense := 0
    keys := { entries := [], next := 0, lastAck := 0xFF, sendPoint := 0, rewind := 0, lost := 0 }
    panel := { frame := [], stagedTiles := [], batch := 0, pendingCommit := none, lastTag := 0 }
    cradle := { ignition := false, dip := false, supply := 0, enabled := 1, budget := 0, levels := 0 }
    settings := [], block := [] }

/-- The head reads back the ANSWER of a node in the probe answer window, buffer empty set (R26, R122, R185). -/
theorem test_probe_answer_reads_back :
    (parseAnswer (newNode.probeAnswerBytes 2 3 newNode.build.header)).map (fun a => (a.pos, a.tag, a.bufferEmpty, a.payload)) =
      some (2, 3, true, [3, 1, 0, 2, 0, 3, 4, 0, 0, 0]) := by decide +kernel

/-- A node without a position that hears SYNC and PROBE(2) claims it and answers in the probe answer window; without SYNC it says
nothing (R22, R30). -/
theorem test_node_hears_a_probe :
    let sync := syncBytes 9 0 (Per6.const false) 1 0 0xFF false (Per6.const 0)
    let probe := ctrlBytes .p2 3 .probe
    let heard := newNode.superframe { busy := false, rejects := false } [sync, probe]
    let deaf := newNode.superframe { busy := false, rejects := false } [probe]
    heard.1.position = some 2 ∧ heard.2.probeAnswer.isSome = true ∧ heard.2.answer = none ∧ deaf.1.position = none ∧
      deaf.2.probeAnswer = none := by decide +kernel

/-- A cradle with a session takes a SUPPLY at position 1 alone (R29). -/
theorem test_node_takes_supply_at_position_1 :
    let c (k : Byte) : Bus.Node := { newNode with
      build := { newNode.build with identity := { newNode.build.identity with kind := .cradle } }
      position := some k, session := some 1 }
    ([1, 2].map fun k => ((c k).supply { busy := false, rejects := false } 0).2.1) = [ReplyCode.done, .refused] := by decide +kernel

/-- The RESUME that ends node-hold is kept, and a resend of it gets the same reply (R25). -/
theorem test_node_keeps_the_resume :
    let h : Bus.Node := { newNode with position := some 2, session := some 1, held := true }
    let first := h.takeCtrl { busy := false, rejects := false } 5 1 [1, 0]
    first.1.held = false ∧ first.1.kept.isSome = true ∧ (first.1.takeCtrl { busy := false, rejects := false } 5 1 [1, 0]).2 = first.2 := by
  decide +kernel

/-- Of superframes without an intact SYNC, the eighth leaves a node as it was; node-hold begins in the ninth with its timer at 0,
and the position is dropped when the timer reaches the hold limit (R28). -/
theorem test_node_hold_begins_in_the_ninth :
    let step (n : Bus.Node) : Bus.Node := (n.superframe { busy := false, rejects := false } []).1
    let n : Bus.Node := { newNode with position := some 2, session := some 1, quiet := 7 }
    let eighth := step n
    let ninth := step eighth
    let near (t : Nat) : Bus.Node := { ninth with holdTimer := t }
    (eighth.held, eighth.quiet) = (false, 8) ∧ (ninth.held, ninth.holdTimer) = (true, 0) ∧
      ((step (near 1498)).position, (step (near 1498)).holdTimer) = (some 2, 1499) ∧ (step (near 1499)).position = none := by
  decide +kernel

/-! ### One step -/

/-- ENABLE, with the base at 10000H. -/
theorem test_enable_starts :
    (Dev.enableOn { Dev.reset with xp := { Xp.reset with windowLow := 0x10000 } }).xp.part = .starting := by decide +kernel

theorem test_starting_writes_the_part_header :
    let d : Dev := { part .starting .undocked with xp := { (part .starting .undocked).xp with initial := some 0 } }
    (d.grant.xp.initial, Mem.read d.grant.mem 0x10100, Mem.read d.grant.mem 0x10103) = (some 1, some 0x00, some 0x72) := by
  decide +kernel

/-- A SUPERFRAME of a docked chain moves the stamp and sends one SYNC of 17 bytes and, for the line role not yet confirmed, a SET of one
item (R22, R169, R185). -/
theorem test_superframe_sends_a_sync :
    (docked.superframe.le.stamp, docked.superframe.le.wire.map List.length) = (501, [17, 10]) := by decide +kernel

/-- A superframe in UNDOCKED sends nothing (R22). -/
theorem test_undocked_is_quiet : (part .running .undocked).superframe.le.wire = [] := by decide +kernel

/-- A fresh dock takes the next session number (R86). -/
theorem test_fresh_dock_numbers_the_session : (part .running .detecting).freshDock.sc.session = 2 := by decide +kernel

/-- FFFFH is followed by 0001H (R86). -/
theorem test_session_number_skips_zero : nextSession 0xFFFF = 1 := by decide

/-! ### Every statement with hypotheses: a state and operands that meet them, for each clause -/

theorem test_EmptyQueueIdles_met : (start docked).pending = [] := rfl

theorem test_BoundsKeptByStep_met : Inv (start Dev.reset).dev ∧ step (start Dev.reset) = .next (start Dev.reset) := by
  refine ⟨⟨fun k => ?_, by decide, by decide, by decide, by decide, by decide⟩, rfl⟩
  cases k <;> exact ⟨by decide, by decide⟩

theorem test_StepsInsideASuperframe_met : actsOutside (.lossReport .p6) = false ∧ actsOutside (.nudge 0) = false := by decide
theorem test_OnlyWritesChangeMemory_met : writesMemory .superframe = false ∧ writesMemory .reset = false := by decide

theorem test_RegisterFields_met :
    (0x00000002#32).getLsbD 1 = true ∧ (0x0000000D#32).getLsbD 1 = false ∧ (0x0000000D#32).getLsbD 0 = true ∧
      (0x0000000C#32).getLsbD 1 = false ∧ (0x0000000C#32).getLsbD 0 = false ∧
      (let d : Dev := { Dev.reset with xp := { Xp.reset with windowLow := 0x10000 } }
       d.xp.part = .disabled ∧ d.enableOn.xp.base = some 0x10000) := by decide +kernel

theorem test_RegisterCommands_met :
    (0x008#12 ≠ 0x004 ∧ 0x008#12 ≠ 0x00C ∧ 0x008#12 ≠ 0x010 ∧ 0x008#12 ≠ 0x014) ∧
      (part .running .undocked).xp.part = .running ∧ (part .stopping .undocked).xp.part = .stopping ∧
      Dev.reset.xp.part = .disabled ∧ (part .starting .undocked).xp.part = .starting := by decide +kernel

theorem test_EnableResult_met :
    (part .starting .undocked).xp.part ≠ .disabled ∧ Dev.reset.xp.part = .disabled ∧
      (let b : W64 := 0#32 ++ 0x10000#32
       b ≠ 0 ∧ b.extractLsb' 0 16 = 0) ∧
      (0#32 ++ 0#32 : W64) = 0 ∧ (0#32 ++ 0x18000#32 : W64).extractLsb' 0 16 ≠ 0 := by decide +kernel

theorem test_StartingResults_met :
    let d := engine (.layout false) (part .starting .undocked)
    let e : Dev := { part .starting .undocked with xp := { (part .starting .undocked).xp with initial := some initialWrites } }
    d.xp.part = .starting ∧ d.xp.engine = some (.layout false) ∧ (some 1 : Option W16) = some 1 ∧
      (none : Option W16) ≠ some 1 ∧ (some 2 : Option W16) ≠ some 1 ∧ e.xp.part = .starting ∧
      e.xp.initial = some initialWrites := by decide +kernel

theorem test_DisableResult_met :
    (part .disabled .undocked).xp.part = .disabled ∧ (part .starting .undocked).xp.part = .starting ∧
      (part .stopping .undocked).xp.part = .stopping ∧
      ([DockState.undocked, .detecting, .released, .bringup, .docked, .holding].all fun k =>
        (part .running k).xp.part = .running ∧ (part .running k).sc.undock = none ∧ (part .running k).sc.dock = k) = true := by
  decide +kernel

theorem test_StoppingResults_met :
    let d := part .stopping .released
    let ended : Dev := { d with sc := { d.sc with endReport := true } }
    let late : Dev := { d with
      xp := { d.xp with enable := false }
      ic := { d.ic with drain := some 100, taken := none, written := 1 } }
    let clean : Dev := { d with ic := { d.ic with drain := some 0 } }
    (ended.xp.part = .stopping ∧ ended.sc.endReport = true) ∧
      (late.xp.part = .stopping ∧ late.xp.enable = false ∧ late.ic.drain = some 100) ∧
      (clean.xp.part = .stopping ∧ clean.xp.enable = true ∧ clean.ic.drain = some 0 ∧ clean.ic.staging = [] ∧
        clean.ic.written = clean.ic.writeCount) := by decide +kernel

theorem test_SuperframeStampAndSchedule_met :
    let d : Dev := { docked with le := { docked.le with next := Per6.const false } }
    docked.xp.part = .running ∧ docked.le.next = docked.le.current ∧ d.xp.part = .running ∧ d.le.next ≠ d.le.current ∧
      (part .stopping .released).xp.part = .stopping := by decide +kernel

/-- Messages wait in the queue of a position. -/
def queueing (k : Pos) (q : List Msg) (d : Dev) : Dev := { d with le := { d.le with queues := d.le.queues.set k q } }

/-- Without tiles; with one on the ready list of a posting in SENDING; and with the link quiet. -/
theorem test_SuperframeTraffic_met :
    let p : Posting := { (updateRecord (record 5 4)).posting .p2 with
      state := .sending, size := 4, ready := [{ index := 0, pixels := 0 }] }
    let d : Dev := { docked with dtu := { docked.dtu with posting := some p } }
    docked.xp.part = .running ∧ docked.superframe.linkInUse = true ∧ docked.newSuperframe.tilesOut = [] ∧
      d.xp.part = .running ∧ d.superframe.linkInUse = true ∧ d.newSuperframe.dtu.posting.isSome = true ∧
      d.newSuperframe.tilesOut ≠ [] ∧
      (part .stopping .released).xp.part = .stopping ∧ (part .stopping .released).superframe.linkInUse = false := by
  decide +kernel

/-- A RESUME to a position that is not scheduled and a PROBE: both windows are to come. -/
theorem test_SuperframeTraffic_met_windows :
    let d := queueing .p6 [Msg.new .cm .probe] (queueing .p5 [Msg.new .cm (.resume 1)] docked)
    d.xp.part = .running ∧ d.superframe.le.current.get .p5 = false ∧ d.superframe.le.windows.get .p5 = true ∧
      d.superframe.le.windows.get .p6 = false ∧ d.superframe.le.probeWindow = some .p6 := by decide +kernel

/-- The arbiter: a session message behind another message, a second PROBE passed over, a head that is no session message, a frozen
queue, one not scheduled and a SUPPLY that waits; the pointer moves to the head served and stays where none is. -/
theorem test_SuperframeTraffic_met_choice :
    let set := Msg.new .ir (.set [] 0)
    let d : Dev := { docked with
      pcu := { docked.pcu with resumed := true }
      cm := { docked.cm with table := docked.cm.table.set .p3 { keyboard .held with resume := some .active } }
      le := { docked.le with
        pointer := .p6
        queues := ⟨[Msg.new .pcu (.supply 0 1 true true)], [set], [set], [set, Msg.new .cm (.resume 1)], [Msg.new .cm .probe],
          [Msg.new .cm .probe]⟩ } }
    let u := d.newSuperframe
    u.chooseSession = [(.p4, 1), (.p5, 0)] ∧ u.chooseHeads u.chooseSession = [.p2] ∧ d.superframe.le.pointer = .p2 ∧
      ({ d with le := { d.le with next := Per6.const false } } : Dev).superframe.le.pointer = .p6 := by decide +kernel

theorem test_SuperframeOutsideRunning_met :
    (part .disabled .undocked).xp.part = .disabled ∧ (part .disabled .undocked).xp.enable = true ∧
      Dev.reset.xp.enable = false ∧ Dev.reset.xp.part = .disabled ∧ (part .starting .undocked).xp.part = .starting := by
  decide +kernel

/-- DOCKED at the end of a superframe, with a notice request, NOTICE_PENDING, NOTICE_ON, MSI enabled and NOTICE_MASK. -/
def noticed (request pending on msi mask : Bool) : Dev :=
  { docked with
    xp := { docked.xp with noticeRequest := request, noticePending := pending, noticeOn := on, noticeMask := mask }
    pcie := { docked.pcie with msiEnable := msi } }

/-- The rows of the table of R180; a counter word that waits, with and without a stall; and its grant, the last word or one of two. -/
theorem test_NoticeBoundary_met :
    let word (x : Dev) : Dev := { x with pub := { x.pub with counters := x.pub.counters.set .errors true } }
    let stall (x : Dev) : Dev := { x with xp := { x.xp with windowStall := true } }
    let waits (w : Per9 Bool) : Dev := ({ docked with
      xp := { docked.xp with msiWait := some w }
      pub := { docked.pub with counters := w } } : Dev).offerAll
    let one := (Per9.const false).set .errors true
    (docked.xp.part = .running ∧
      [noticed true false true true false, noticed false true true true false].all (fun x =>
        (x.endSuperframe.xp.noticeRequest || x.endSuperframe.xp.noticePending) && x.endSuperframe.xp.noticeOn &&
          x.endSuperframe.pcie.msiEnable && !x.endSuperframe.xp.noticeMask &&
          !Cause.all.any (fun c => x.endSuperframe.noticeWords.get c) &&
          Cause.all.any (fun c => (word x).endSuperframe.noticeWords.get c) && (stall (word x)).endSuperframe.xp.windowStall) = true ∧
      [noticed true true true false false, noticed true false true true true, noticed true true false true false].all (fun x =>
        x.endSuperframe.xp.noticeRequest) = true ∧
      [noticed false true false true false, noticed false true true false false, noticed false true true true true].all (fun x =>
        !x.endSuperframe.xp.noticeRequest && x.endSuperframe.xp.noticePending) = true ∧
      (noticed false false true true false).endSuperframe.xp.noticePending = false) ∧
    ((waits one).nextGrant = some (.xp, .header (.counter .errors)) ∧ (waits one).pcie.busMaster = true ∧
      (waits one).xp.windowStall = false ∧ (waits one).xp.msiWait = some one ∧
      Cause.all.all (fun b => b == .errors || !one.get b) = true ∧
      (waits (one.set .updates true)).nextGrant.isSome = true) := by
  decide +kernel

/-- A docked chain whose scheduled windows all passed with no good ANSWER, at count 3; and every timer of R87 to R161 at work somewhere. -/
theorem test_SuperframeTimers_met :
    let d : Dev := { docked with le := { docked.le with interruption := 3, windows := docked.le.current } }
    d.xp.part = .running ∧ d.linkInUse = true ∧ d.sc.dock ≠ .holding ∧ d.le.answered = false ∧
      Pos.all.any (fun k => d.le.current.get k && d.le.windows.get k) = true ∧ d.le.interruption + 1 = 4 ∧
      (part .stopping .released).xp.part = .stopping ∧
      ({ docked with dtu := { docked.dtu with posting := some ((updateRecord (record 5 4)).posting .p2) } } : Dev).dtu.posting =
        some ((updateRecord (record 5 4)).posting .p2) := by
  decide +kernel

/-- The lowest LOST entry as before, another one, and a RESUME to be queued at once. -/
theorem test_SuperframeTimers_met_resume :
    let lost : Dev := onEntry .p3 (fun e => { e with state := .lost, resume := some .active, lostAt := some 400 }) docked
    let d (at' : Option Pos) (now : Bool) : Dev := { lost with
      cm := { lost.cm with resumeTimer := 40, resumeFor := at', resumeNow := now } }
    (d (some .p3) false).lowestLost = some .p3 ∧ (d (some .p3) false).superframe.cm.resumeTimer = 41 ∧
      (d (some .p2) false).superframe.cm.resumeTimer = 0 ∧
      (d (some .p3) true).newSuperframe.traffic.walkTarget = some .p3 ∧
      (d (some .p3) true).superframe.cm.resumeTimer = 0 := by decide +kernel

theorem test_QueueReofferResult_met :
    let m := Msg.new .cm .probe
    let o : QueueOffer := { pos := .p4, what := .message m, stamp := 499 }
    let d : Dev := { docked with le := { docked.le with offers := [o] } }
    d.le.offers = o :: [] ∧ o.stamp ≠ d.le.stamp ∧ o.what = .message m ∧ Takes d o.pos m := by
  unfold Takes
  decide +kernel

/-- A window of a scheduled position at 15 misses, one of a position in the list that is not scheduled, one in HOLDING; and a message that
fails its CRC. -/
theorem test_AnswerMissedOrFailing_met :
    let d : Dev := { docked with le := { docked.le with
      windows := ⟨true, true, true, true, false, false⟩, miss := (Per6.const 0).set .p2 15 } }
    let h : Dev := { d with sc := { d.sc with dock := .holding } }
    (d.le.windows.get .p2 = true ∧ d.inFlight .p2 false = none ∧ d.le.current.get .p2 = true ∧ d.sc.dock ≠ .holding ∧
        d.le.miss.get .p2 = 15 ∧ d.le.miss.get .p1 ≠ 15) ∧
      (d.le.windows.get .p4 = true ∧ d.inFlight .p4 false = none ∧ d.le.current.get .p4 = false) ∧
      (h.le.windows.get .p2 = true ∧ h.inFlight .p2 false = none ∧ h.sc.dock = .holding) ∧
      d.goodAnswer .p2 (some [4, 2, 1, 0, 0, 0, 0, 0, 0, 0, 0]) = none := by decide +kernel

/-- A message in flight at its first and at its third attempt; and a PROBE in flight, its answer good and failing. -/
theorem test_AnswerMissedOrFailing_met_flight :
    let m (n : Nat) : Msg := { Msg.new .cm (.resume 1) with tag := some 5, inFlight := true, attempts := n }
    let p : Msg := { Msg.new .cm .probe with tag := some 3, inFlight := true }
    let w : Dev := { docked with le := { docked.le with windows := Per6.const true, probeWindow := some .p4 } }
    let d n := queueing .p3 [m n] w
    let e := queueing .p4 [p] w
    let bs := newNode.probeAnswerBytes 4 3 newNode.build.header
    ([0, 2].all (fun n => (d n).le.windows.get .p3 && (d n).inFlight .p3 false == some (m n) && !(m n).withdrawn) = true ∧
        (m 0).attempts + 1 < 3 ∧ 3 ≤ (m 2).attempts + 1 ∧ (d 0).goodAnswer .p3 none = none ∧
        (d 0).goodAnswer .p3 (some [1, 2, 3]) = none) ∧
      (e.le.probeWindow = some .p4 ∧ e.inFlight .p4 true = some p ∧ p.withdrawn = false ∧
        (goodProbeAnswer .p4 (some bs)).any (fun a => a.replyTo p == some .done) = true ∧
        (goodProbeAnswer .p4 none).bind (fun a => a.replyTo p) = none) := by decide +kernel

/-- An ANSWER as bytes: position, flags, reply byte and payload, one entry or none, lost count 2, the fields by kind. -/
def frame (k flags reply : Byte) (payload : List Byte) (entry : List Byte) (tail : List Byte) : List Byte :=
  withCrc ([4, k, flags, reply, BitVec.ofNat 8 payload.length] ++ payload ++ (if entry = [] then [0] else 1 :: entry) ++
    [2, 0] ++ tail)

/-- An ANSWER is good at a position and has what a clause asks of it. -/
def good (d : Dev) (k : Pos) (bs : List Byte) (p : Answer → Bool) : Bool :=
  d.le.windows.get k && (d.goodAnswer k (some bs)).any fun a =>
    !a.bufferEmpty && a.lost == (d.ic.pos.get k).lost && p a

/-- DOCKED with every window to come and each lost count 2. -/
def answering : Dev :=
  { docked with
    le := { docked.le with windows := Per6.const true }
    ic := { docked.ic with
      pos := Per6.const { isOpen := true, accepted := 255, lost := 2, keyDown := 0 }
      staging := List.replicate 24 { kind := .key, position := 3, direction := 1, seq := 9, detail := 0, stamp := 0 } } }

/-- Position 3 is HELD, with no summary. -/
def answeringHeld : Dev := onEntry .p3 (fun x => { x with state := .held, resume := some .active, caps := Caps.none }) answering

/-- A keystroke of an entry in use and of one HELD, with sequence 0 after 255 and eight places free. -/
theorem test_AnswerHandOut_met_input :
    good answering .p3 (frame 3 1 0 [] [0, 0x02, 0x01, 0] [2, 0]) (fun a =>
        a.sense == some SenseCode.clean.code && a.entries == [{ seq := 0, key := 0x0102, direction := 0 }]) = true ∧
      good answeringHeld .p3 (frame 3 3 0 [] [0, 0x02, 0x01, 0] [0]) (fun a =>
        a.sense == none && a.entries == [{ seq := 0, key := 0x0102, direction := 0 }]) = true ∧
      answering.inFlight .p3 false = none ∧ answeringHeld.inFlight .p3 false = none ∧
      (answering.ic.pos.get .p3).accepted + 1 = 0 ∧ 8 ≤ answering.ic.free ∧ (answering.entry .p3).isAway = false ∧
      (answering.entry .p3).kind = .keyboard ∧ (answeringHeld.entry .p3).isAway = true := by decide +kernel

/-- An entry out of order, one with no session open, one with seven places free; a lost count that moved, with a place free and with
none; and buffer empty. -/
theorem test_AnswerHandOut_met_refused :
    let shut : Dev := { answering with ic := { answering.ic with pos := Per6.const { InputSession.closed with accepted := 255, lost := 2 } } }
    let stage n : Dev := { answering with ic := { answering.ic with
      staging := List.replicate n { kind := .key, position := 3, direction := 1, seq := 9, detail := 0, stamp := 0 } } }
    let moved : Dev := { stage 24 with ic := { (stage 24).ic with
      pos := Per6.const { isOpen := true, accepted := 255, lost := 1, keyDown := 0 } } }
    let full : Dev := { stage 32 with ic := { (stage 32).ic with pos := moved.ic.pos } }
    let key (seq : Byte) := frame 3 1 0 [] [seq, 2, 1, 0] [2, 0]
    let plain (flags : Byte) := frame 3 flags 0 [] [] [2, 0]
    good answering .p3 (key 255) (fun a => a.entries.length == 1) = true ∧ (answering.ic.pos.get .p3).accepted + 1 ≠ 255 ∧
      good shut .p3 (key 0) (fun a => a.entries.length == 1) = true ∧ (shut.ic.pos.get .p3).isOpen = false ∧
      good (stage 25) .p3 (key 0) (fun a => a.entries.length == 1) = true ∧ (stage 25).ic.free < 8 ∧
      [(moved, 1), (full, 1), (answering, 5)].all (fun x =>
        x.1.le.windows.get .p3 && (x.1.inFlight .p3 false).isNone && (x.1.ic.pos.get .p3).isOpen &&
          (x.1.goodAnswer .p3 (some (plain x.2))).any fun a => a.entries == [] && a.bufferEmpty == (x.2 == 5) &&
            a.sense == some SenseCode.clean.code && (a.lost == (x.1.ic.pos.get .p3).lost) == (x.2 == 5)) = true ∧
      0 < moved.ic.free ∧ full.ic.free = 0 := by decide +kernel

/-- The four replies to a RESUME in flight with tag 5. -/
theorem test_AnswerHandOut_met_reply :
    let m : Msg := { Msg.new .cm (.resume 1) with tag := some 5, inFlight := true }
    let d : Dev := { answeringHeld with le := { answeringHeld.le with queues := answeringHeld.le.queues.set .p3 [m] } }
    d.inFlight .p3 false = some m ∧ (d.entry .p3).isAway = true ∧ m.withdrawn = false ∧ m.firstBusy = none ∧
      [(0x15, ReplyCode.done), (0x25, .busy), (0x35, .refused), (0x45, .mismatch)].all (fun x =>
        good d .p3 (frame 3 3 x.1 [] [] [0]) (fun a => a.entries == [] && a.replyTo m == some x.2)) = true := by decide +kernel

/-- A reply to a message of an entry in use; BUSY 63 and 64 superframes after the first; and no valid reply at the first and the third
attempt. -/
theorem test_AnswerHandOut_met_reply_in_use :
    let m (n : Nat) (b : Option W32) : Msg :=
      { Msg.new .cm (.resume 1) with tag := some 5, inFlight := true, attempts := n, firstBusy := b }
    let d n b := queueing .p3 [m n b] answering
    [(0, none, 0x15, some ReplyCode.done), (0, some 437, 0x25, some .busy), (0, some 436, 0x25, some .busy),
        (0, none, 0x14, none), (2, none, 0x14, none)].all (fun (x : Nat × Option W32 × Byte × Option ReplyCode) =>
      (d x.1 x.2.1).inFlight .p3 false == some (m x.1 x.2.1) &&
        good (d x.1 x.2.1) .p3 (frame 3 1 x.2.2.1 [] [] [2, 0]) fun a =>
          a.entries == [] && a.sense == some SenseCode.clean.code && a.replyTo (m x.1 x.2.1) == x.2.2.2) = true ∧
      (answering.entry .p3).kind = .keyboard ∧ (answering.le.stamp - 437).toNat < 64 ∧ 64 ≤ (answering.le.stamp - 436).toNat := by
  decide +kernel

/-- A cradle's fields with a dip; a display's fields in GATE and in SENDING. -/
theorem test_AnswerHandOut_met_fields :
    let p (s : PostingState) : Posting := { (updateRecord (record 5 4)).posting .p2 with
      state := s, size := 4, sendPoint := 2, began := 1 }
    let d s : Dev := { answering with dtu := { answering.dtu with posting := some (p s) } }
    good answering .p1 (frame 1 1 0 [] [] [3, 2, 0, 1, 9, 0, 0, 0, 1, 0]) (fun a =>
        a.entries == [] && a.cradle.any (fun f => f.dip) && a.sense == some SenseCode.clean.code) = true ∧
      (answering.entry .p1).kind = .cradle ∧ (answering.entry .p1).isAway = false ∧
      [PostingState.gate, .sending].all (fun s =>
        good (d s) .p2 (frame 2 1 0 [] [] [6, 0, 1, 0, 4, 1]) (fun a =>
          a.display.any (fun f => f.stagingEmpty && f.received == 1) && a.sense == some SenseCode.clean.code)) = true ∧
      (answering.entry .p2).kind = .display ∧ (p .gate).began ≠ answering.le.stamp ∧ (p .sending).received < 1 ∧
      1 ≤ (p .sending).sendPoint ∧ (p .sending).size ≠ 1 := by decide +kernel

/-- A sense code on the watch, CLEAN and partial after two reports; off the watch; and a byte that is no code. -/
theorem test_AnswerHandOut_met_sense :
    let d (seg : SegState) : Dev := onEntry .p3 (fun x => { x with seg := seg }) { answering with cm := { answering.cm with
      discovery := .complete, segs := answering.cm.segs.set .p4 { SegRecord.init with confirm := 2 } } }
    Pos.p3.next? = some .p4 ∧ ((d .on).cm.segs.get .p4).confirm < 3 ∧ (d .on).cm.discovery = .complete ∧
      (d .on).sc.undock = none ∧ ((d .on).entry .p3).seg = .on ∧ ((d .off).entry .p3).seg ≠ .on ∧
      SenseCode.openWire.sort = .partial_ ∧ SenseCode.ofCode? 200 = none ∧
      [SenseCode.clean.code, SenseCode.openWire.code, 200].all (fun b =>
        [SegState.on, .off].all fun g =>
          good (d g) .p3 (frame 3 1 0 [] [] [2, b]) fun a => a.entries == [] && a.sense == some b) = true := by decide +kernel

/-- The sense code of the cradle and of a display. -/
theorem test_AnswerHandOut_met_sense_fields :
    let d : Dev := { answering with cm := { answering.cm with discovery := .complete } }
    good d .p1 (frame 1 1 0 [] [] [3, 2, 0, 1, 9, 0, 0, 0, 1, 2]) (fun a =>
        a.entries == [] && a.sense == some SenseCode.openWire.code) = true ∧
      good d .p2 (frame 2 1 0 [] [] [6, 2, 1, 0, 4, 1]) (fun a =>
        a.entries == [] && a.sense == some SenseCode.openWire.code) = true ∧
      (d.entry .p1).kind = .cradle ∧ (d.entry .p2).kind = .display ∧ SenseCode.openWire.sort ≠ .critical ∧
      (d.cm.segs.get .p2).confirm < 3 ∧ (d.cm.segs.get .p3).confirm < 3 := by decide +kernel

theorem test_ErrorWindowEndResult_met :
    let d : Dev := { docked with le := { docked.le with windowEnded := true } }
    d.le.windowEnded = true := by decide +kernel

theorem test_LossReportResult_met :
    let d : Dev := { docked with le := { docked.le with lossDue := (Per6.const false).set .p2 true } }
    d.le.lossDue.get .p2 = true ∧ (d.entry .p2).releasing = false ∧ (d.entry .p2).state.live?.isSome = true ∧
      ((d.entry .p3).state.live? = some .active ∧ Pos.p2.toNat ≤ Pos.p3.toNat) ∧ (d.entry .p4).state.live? = none := by
  decide +kernel

theorem test_InterruptionReportResult_met :
    let d : Dev := { docked with le := { docked.le with interruptionDue := true } }
    d.le.interruptionDue = true ∧ d.sc.dock = .docked ∧ d.sc.undock = none ∧ (d.entry .p2).releasing = false ∧
      (d.entry .p2).state.live? = some .active ∧ (d.entry .p4).state.live? = none ∧
      (d.resumeOut .p1 .sc = false ∧ d.probeOut .p1 .sc = false ∧ (d.entry .p1).releasing = false ∧
        (d.queue .p1).length ≤ 6) := by decide +kernel

/-- A cradle at an empty table, and a keystrip at position 4 behind the three in use. -/
theorem test_ProbeResultEffect_met :
    let header : List Byte := [4, 1, 0, 2, 0, 3, 4, 0, 0, 0]
    let r := result .p1 .sc .probe .done header
    let q := result .p4 .cm .probe .done header
    let b := withOne r (part .running .bringup)
    let d := withOne q { docked with cm := { docked.cm with discovery := .probing } }
    (b.le.results = [r] ∧ r.payload = .probe ∧ r.code = .done ∧ (parseIdentity r.data).isSome = true ∧ b.anyReleasing = false ∧
        b.sc.undock = none ∧ (b.entry .p1).isVacant = true ∧ b.sc.dock = .bringup ∧ b.last = 0) ∧
      d.le.results = [q] ∧ d.anyReleasing = false ∧ d.sc.undock = none ∧ (d.entry .p4).isVacant = true ∧
      Pos.p4.prev? = some .p3 ∧ d.sc.dock = .docked ∧ d.cm.discovery = .probing ∧ d.faultRead = none ∧
      d.frontierPos = some .p4 ∧ Pos.p4.toNat = d.last + 1 ∧ Takes d .p3 (Msg.new .cm (.segment .on .bringOn)) := by
  unfold Takes
  decide +kernel

/-- A returned position that matches; the cradle of HOLDING and another one; no answer before and after 50 superframes. -/
theorem test_ProbeResultEffect_met_other :
    let r k c x := result k .cm .probe c x
    let home : List Byte := [3, 0, 0, 0, 0, 7, 0, 0, 0, 0]
    let back := onEntry .p3 (fun e => { e with kind := .display, returned := true, resume := none, state := .held }) docked
    let hold : Dev := onEntry .p1 (fun e => { e with state := .held, resume := some .active })
      { docked with sc := { docked.sc with dock := .holding } }
    let silent (n : Nat) : Dev := { docked with cm := { docked.cm with discovery := .probing, stepTimer := n } }
    let cradleIs (v : Byte) := [1, v, 0, 0, 0, 9, 0, 0, 0, 0]
    ((back.entry .p3).isReturned = true ∧ back.faultRead = none ∧ (withOne (r .p3 .done home) back).le.results = [r .p3 .done home] ∧
        (parseIdentity home).any (fun i => i.matchesEntry (back.entry .p3)) = true ∧ back.anyReleasing = false) ∧
      (hold.sc.dock = .holding ∧ (hold.entry .p1).isAway = true ∧ hold.cm.discovery ≠ .locating ∧ hold.cm.release = none ∧
        hold.xp.part = .running ∧ (parseIdentity (cradleIs 0)).any (fun i => i.matchesEntry (hold.entry .p1)) = true ∧
        (parseIdentity (cradleIs 1)).any (fun i => !i.matchesEntry (hold.entry .p1)) = true) ∧
      ([0, 50].all (fun n => (silent n).frontierPos == some .p4 && (silent n).faultRead == none && !(silent n).anyLost &&
          !((silent n).entry .p4).isReturned) = true ∧
        (silent 0).cm.stepTimer < 50 ∧ Takes (silent 0) .p4 (Msg.new .cm .probe) ∧ 50 ≤ (silent 50).cm.stepTimer) := by
  unfold Takes
  decide +kernel

theorem test_ResumeResultEffect_met :
    let lost k l := onEntry k (fun e => { e with state := .lost, resume := some l, lostAt := some 400, attempts := 254 }) docked
    let d := lost .p3 .active
    let f := lost .p3 .failed
    let h : Dev := { lost .p1 .active with sc := { docked.sc with dock := .holding } }
    let r k c := result k .cm (.resume 1) c []
    (withOne (r .p3 .done) d).le.results = [r .p3 .done] ∧ (d.entry .p3).isAway = true ∧
      (d.entry .p3).resume = some .active ∧ (d.entry .p3).releasing = false ∧ d.sc.undock = none ∧ (r .p3 .done).pos ≠ .p1 ∧
      d.sc.pass ≠ some .p3 ∧ d.anyReleasing = false ∧ d.cm.release = none ∧
      ((f.entry .p3).resume = some .failed ∧ (f.entry .p3).isAway = true ∧ (f.entry .p3).releasing = false) ∧
      ((h.entry .p1).isAway = true ∧ (h.entry .p1).resume = some .active ∧ h.sc.dock = .holding ∧ h.sc.undock = none ∧
        h.cm.discovery ≠ .locating ∧ h.anyReleasing = false ∧ h.cm.release = none ∧ h.xp.part = .running) := by decide +kernel

/-- An entry HELD or LOST with a resume state, in a dock state, the return pass at a position. -/
def resuming (k : Pos) (s : EntryState) (l : Live) (dock : DockState) (pass : Option Pos) (attempts : Byte) : Dev :=
  onEntry k (fun e => { e with state := s, resume := some l, attempts := attempts })
    { docked with sc := { docked.sc with dock := dock, pass := pass } }

/-- RESUME(1): MISMATCH of an entry not ACTIVE in HOLDING, of an ACTIVE one in DOCKED, in BRINGUP, and in DOCKED of one not ACTIVE. -/
theorem test_ResumeResultEffect_met_cradle :
    [resuming .p1 .held .configuring .holding none 0, resuming .p1 .lost .active .docked none 0,
        resuming .p1 .lost .active .bringup none 0, resuming .p1 .lost .failed .docked none 0].all (fun d =>
      (d.entry .p1).isAway && (d.entry .p1).resume.isSome && !(d.entry .p1).releasing && d.sc.undock.isNone &&
        !d.anyReleasing && d.cm.release.isNone && d.xp.part == .running && d.cm.discovery != .locating) = true := by
  decide +kernel

/-- An entry whose resume state is absent, with the RESUME of a resume walk still queued to it: a failure counts, a MISMATCH
releases it, and a DONE leaves it HELD (R10, log 71). -/
theorem test_ResumeResultEffect_met_no_resume_state :
    let d := onEntry .p3 (fun e => { e with state := .held, returned := true, resume := none, attempts := 2 }) docked
    ((d.entry .p3).isAway = true ∧ (d.entry .p3).resume = none ∧ (d.entry .p3).releasing = false ∧ d.sc.undock = none ∧
        d.sc.pass ≠ some .p3 ∧ d.anyReleasing = false ∧ d.cm.release = none) ∧
      ((d.resumeResult .p3 .noReply).entry .p3).attempts = 3 ∧ ((d.resumeResult .p3 .mismatch).entry .p3).releasing = true ∧
      ((d.resumeResult .p3 .done).entry .p3).attempts = 0 ∧ ((d.resumeResult .p3 .done).entry .p3).state = .held := by
  decide +kernel

/-- The return pass: a second and a third failure; DONE with the next entry HELD with a resume state, HELD with none, and none HELD. -/
theorem test_ResumeResultEffect_met_pass :
    let d n := resuming .p2 .held .active .docked (some .p2) n
    let e (l : Option Live) := onEntry .p3 (fun x => { x with state := .held, resume := l }) (d 0)
    let target (x : Dev) := Pos.all.find? fun j =>
      decide (Pos.p2.toNat < j.toNat) && (x.entry j).state == .held && !(x.entry j).releasing
    (d 1).sc.pass = some .p2 ∧ (satInc (1 : Byte)).toNat < 3 ∧ 3 ≤ (satInc (2 : Byte)).toNat ∧
      Takes (d 1) .p2 (Msg.new .sc (.resume 1)) ∧ target (d 0) = none ∧ target (e none) = some .p3 ∧
      target (e (some .active)) = some .p3 ∧ Takes (e (some .active)) .p3 (Msg.new .sc (.resume 1)) := by
  unfold Takes
  decide +kernel

/-- The third failure of the return pass at 2: the blocks that 2 and 3, both HELD, have taken since the hold are UNKNOWN again, that
of position 1, ACTIVE, is not; a STATUS_BLOCK not yet sent leaves its queue, one sent before the hold stays (R165). -/
theorem test_pass_lost_forgets_blocks :
    let block (tag : Option (BitVec 4)) : Msg := { Msg.new .pcu (.statusBlock 0) with tag := tag }
    let held := onEntry .p3 (fun x => { x with state := .held, resume := some .active })
      (resuming .p2 .held .active .docked (some .p2) 2)
    let d : Dev := { held with
      pcu := { held.pcu with delivered := Per6.const (some 0) }
      le := { held.le with queues := (held.le.queues.set .p2 [block none]).set .p3 [block (some 1)] } }
    let e := d.resumeResult .p2 .noReply
    (e.entry .p2).state = .lost ∧ (e.entry .p3).state = .lost ∧
      e.pcu.delivered = ⟨some 0, none, none, some 0, some 0, some 0⟩ ∧ e.queue .p2 = [] ∧ e.queue .p3 = [block (some 1)] := by
  decide +kernel

/-- The return pass begins at the cradle's return: the next entry HELD with a resume state, HELD with none, and none HELD. -/
theorem test_ResumeResultEffect_met_pass_begins :
    let h := resuming .p1 .held .active .holding none 0
    let e (l : Option Live) := onEntry .p3 (fun x => { x with state := .held, resume := l }) h
    let target (x : Dev) := Pos.all.find? fun j => decide (1 < j.toNat) && (x.entry j).state == .held && !(x.entry j).releasing
    target h = none ∧ target (e none) = some .p3 ∧ target (e (some .active)) = some .p3 ∧
      ((e (some .active)).entry .p3).resume.isSome = true ∧ ((e (some .active)).queue .p3).length ≤ 6 := by decide +kernel

theorem test_ReadResultEffect_met :
    let w : Walk := { serial := 5, at_ := .header, limit := 0, count := 0, used := [] }
    let d := onEntry .p3 (fun e => { e with state := .reading }) docked
    let d : Dev := { d with cm := { d.cm with walks := d.cm.walks.set .p3 (some w) } }
    let r c := result .p3 .cm (.read 0 5) c [1, 252, 0, 1]
    d.cm.walks.get .p3 = some w ∧ (d.entry .p3).state = .reading ∧ (d.entry .p3).releasing = false ∧
      (withOne (r .done) d).le.results = [r .done] ∧ w.at_ = .header ∧
      descriptorHeader ((r .done).data.take 16) = some (252, 256) ∧ Takes d .p3 (Msg.new .cm (.read 252 5)) ∧
      Takes d .p3 (Msg.new .cm (.read 0 5)) ∧ (r .refused).code = .refused ∧ (r .refused).pos ≠ .p1 := by
  unfold Takes
  decide +kernel

/-- Position 3 in a walk, at the record at 12 of a descriptor of 100 bytes. -/
def walking (kind : Kind) (buf : List Byte) (count : Nat) (caps : Caps) : Dev :=
  let d := onEntry .p3 (fun e => { e with state := .reading, kind := kind, caps := caps }) docked
  { d with cm := { d.cm with walks := d.cm.walks.set .p3 (some
      { serial := 5, at_ := .record 12 buf, limit := 100, count := count, used := [] }) } }

/-- A keyboard's summary but for the ident section. -/
def nearly : Caps := { (keyboard .active).caps with
  ident := none, power := some { base := 1, draws := List.replicate 7 1 } }

/-- A record skipped, one longer than what has been read, one used with a next record, the last one with a complete summary and with
an incomplete one. -/
theorem test_ReadResultEffect_met_record :
    let skip : List Byte := [9, 4, 20, 0]
    let long : List Byte := [4, 20, 60, 0, 10, 0, 1, 0, 2, 0, 3, 0, 4, 0, 5, 0]
    let ident (next : Byte) : List Byte := [1, 6, next, 0, 2, 1]
    recordHeader 100 12 skip = some (9, 4, 20) ∧ Kind.keyboard.uses 9 = false ∧
      recordHeader 100 12 long = some (4, 20, 60) ∧ Kind.keyboard.uses 4 = true ∧ long.length < 20 ∧
      (recordHeader 100 12 (ident 20) = some (1, 6, 20) ∧ recordHeader 100 12 (ident 0) = some (1, 6, 0) ∧
        Kind.keyboard.uses 1 = true ∧ 6 ≤ (ident 0).length ∧
        [nearly, Caps.none].all (fun c => (buildSection .keyboard 1 ((ident 0).take 6) c).any fun x =>
          walkFault .p3 { (walking .keyboard [] 0 c).entry .p3 with caps := x, seg := x.segState } ==
            (if c == nearly then none else some .badDescriptor)) = true) ∧
      [Payload.read 20 5, .read 60 5, .read 28 5].all (fun p =>
        !(walking .keyboard [] 0 Caps.none).goneAtOnce .p3 (Msg.new .cm p) &&
          !queueFull ((walking .keyboard [] 0 Caps.none).queue .p3) (Msg.new .cm p)) = true := by decide +kernel

/-- Each breach: a header, a thirteenth record, a record's header, and a used record that fails its checks. -/
theorem test_ReadResultEffect_met_breach :
    descriptorHeader [2, 8, 0, 1] = none ∧ 12 < 12 + 1 ∧ recordHeader 100 12 [1, 3, 0, 0] = none ∧
      recordHeader 100 12 [1, 6, 0, 0, 9, 0] = some (1, 6, 0) ∧ Kind.keyboard.uses 1 = true ∧
      buildSection .keyboard 1 [1, 6, 0, 0, 9, 0] Caps.none = none ∧
      ((walking .keyboard [] 12 Caps.none).cm.walks.get .p3).any (fun w => w.count == 12 && !w.used.contains 1) = true ∧
      (part .running .bringup).sc.dock = .bringup := by decide +kernel

theorem test_SetResultEffect_met :
    let items : List SetItem := [{ item := .displayMode, index := 0, value := 1 }]
    let p : Push := { gen := 9, first := false }
    let d : Dev := { docked with ir := { docked.ir with pos := docked.ir.pos.modify .p2 fun x => { x with push := some p } } }
    let c := onEntry .p3 (fun e => { e with state := .configuring }) docked
    let r := result .p2 .ir (.set items 0) .refused []
    let q := result .p2 .ir (.set items 0) .done []
    let t := result .p3 .cm (.set c.sessionItems 0) .done []
    ((withOne r d).le.results = [r] ∧ (d.entry .p2).releasing = false ∧ (d.entry .p2).state = .active ∧
        (d.ir.pos.get .p2).push = some p) ∧
      (withOne q d).le.results = [q] ∧ (withOne t c).le.results = [t] ∧ (c.entry .p3).state = .configuring ∧
      (c.cm.configuring.get .p3).serial = 0 ∧ (c.cm.configuring.get .p3).sessionDone = false := by decide +kernel

/-- Configuring but for its last step, at the cradle in BRINGUP and behind it. -/
def configuring (k : Pos) (dock : DockState) (applyDone : Bool) : Dev :=
  let d := onEntry k (fun e => { e with state := .configuring }) { docked with sc := { docked.sc with dock := dock } }
  let c : Configuring := { Configuring.init with sessionDone := true, applyDone := applyDone }
  { d with cm := { d.cm with configuring := d.cm.configuring.set k c } }

/-- The session items: at the cradle with a pick and with none, at one whose contract has left NONE; at a keyboard with a key down, with
items that differ and with none; and in RELEASING. -/
theorem test_SetResultEffect_met_session_items :
    let c (k : Pos) (dock : DockState) : Dev :=
      let d := configuring k dock false
      let d : Dev := { d with cm := { d.cm with configuring := d.cm.configuring.set k Configuring.init } }
      { d with ic := { d.ic with pos := d.ic.pos.modify k fun p => { p with keyDown := 1 } } }
    let without (d : Dev) : Dev := { d with pcu := { d.pcu with live := { d.pcu.live with enabled := 0 } } }
    let s (k : Pos) (d : Dev) (items : List SetItem) : Dev := withOne (result k .cm (.set items 0) .done []) d
    let shadowed (k : Pos) (d : Dev) (items : List SetItem) : Dev :=
      { d with ir := { d.ir with pos := d.ir.pos.set k { d.ir.pos.get k with
          shadow := Shadow.confirm items (d.ir.pos.get k).shadow } } }
    let k3 := c .p3 .docked
    ([(Pos.p1, c .p1 .bringup), (.p3, k3), (.p3, c .p3 .releasing)].all (fun x =>
        ((s x.1 x.2 x.2.sessionItems).entry x.1).state == .configuring &&
          ((s x.1 x.2 x.2.sessionItems).cm.configuring.get x.1).serial == 0 &&
          !((s x.1 x.2 x.2.sessionItems).cm.configuring.get x.1).sessionDone && !(x.2.entry x.1).releasing) = true) ∧
      ((c .p1 .bringup).pcu.contract = .none ∧ (c .p1 .bringup).pick.isSome = true ∧
        (without (c .p1 .bringup)).pick = none ∧ ((c .p1 .bringup).queue .p1).length ≤ 5 ∧
        ((c .p1 .bringup).entry .p1).caps.keys = none) ∧
      ((k3.entry .p3).caps.keys.isSome = true ∧ (k3.ic.pos.get .p3).keyDown ≠ 0 ∧ k3.ic.staging.length < 32 ∧
        k3.sc.dock ≠ .releasing ∧ k3.settingOut .p3 = false ∧ (k3.queue .p3).length ≤ 5 ∧
        (shadowed .p3 k3 k3.sessionItems).differing .p3 ≠ [] ∧ (shadowed .p3 k3 (k3.differing .p3)).differing .p3 = []) := by
  decide +kernel

/-- The last SET of a first apply: it leaves nothing that differs. -/
theorem test_SetResultEffect_met_first_apply :
    [(Pos.p1, DockState.bringup), (.p3, .docked)].all (fun x =>
      let d := configuring x.1 x.2 false
      let items := (d.differing x.1).take 6
      let p : Push := { gen := 9, first := true }
      let s : Dev := withOne (result x.1 .ir (.set items 0) .done [])
        { d with ir := { d.ir with pos := d.ir.pos.modify x.1 fun q => { q with push := some p } } }
      let u : Dev := { s with
        le := { s.le with results := [] }
        ir := { s.ir with pos := s.ir.pos.set x.1 { s.ir.pos.get x.1 with
          shadow := Shadow.confirm items (s.ir.pos.get x.1).shadow } } }
      (s.ir.pos.get x.1).push == some p && (s.entry x.1).state == .configuring && !(s.entry x.1).releasing &&
        (s.cm.configuring.get x.1).sessionDone && !(s.entry x.1).isConsumer && !u.settingOut x.1 &&
        (u.differing x.1).isEmpty && s.sc.undock.isNone) = true := by decide +kernel

/-- A SET of the Intent Reconciler answered DONE in RELEASING leaves the shadow as it stands (R117). -/
theorem test_SetResultEffect_met_releasing :
    let items : List SetItem := [{ item := .displayBacklight, index := 0xFF, value := 5 }]
    let r := result .p2 .ir (.set items 0) .done []
    let d (k : DockState) : Dev := withOne r { docked with sc := { docked.sc with dock := k } }
    ((d .releasing).le.results = [r] ∧ r.sub = .ir ∧ (d .releasing).sc.dock = .releasing ∧
        ((d .releasing).entry .p2).releasing = false ∧ ((d .releasing).entry .p2).state = .active) ∧
      (((d .releasing).settingResult .p2 items .done).ir.pos.get .p2).shadow.displayBacklight = none ∧
      (((d .docked).settingResult .p2 items .done).ir.pos.get .p2).shadow.displayBacklight = some 5 := by decide +kernel

/-- The session items of an earlier configuring, of one whose step 1 has ended, and at an entry that is HELD: DONE opens the input
session and moves no configuring (R123, log 67). -/
theorem test_SetResultEffect_met_late_session_items :
    let c := onEntry .p3 (fun e => { e with state := .configuring }) docked
    let h := onEntry .p3 (fun e => { e with state := .held, resume := some .configuring }) docked
    let done : Dev := configuring .p3 .docked false
    ([(c, 7), (h, 0), (done, 0)].all (fun x =>
        let d := x.1.sessionResult .p3 x.1.sessionItems x.2 .done
        !(x.1.entry .p3).releasing && !x.1.awaitsSession .p3 x.2 && (d.ic.pos.get .p3).isOpen && d.cm == x.1.cm &&
          (d.ir.pos.get .p3).shadow.hold == some (x.1.sc.holdLimit + 250)) = true) ∧
      c.awaitsSession .p3 0 = true ∧ (result .p3 .cm (.set c.sessionItems 7) .refused []).code ≠ .done := by decide +kernel

theorem test_SegmentResultOfDiag_met :
    let d : Dev := { docked with cm := { docked.cm with discovery := .powering } }
    let r c := result .p3 .cm (.segment .diag .stepDiag) c []
    (withOne (r .done) d).le.results = [r .done] ∧ (d.entry .p3).releasing = false ∧ d.cm.discovery = .powering ∧
      d.ahead = some .p3 ∧ (r .refused).code = .refused ∧ (r .busyTimeout).code = .busyTimeout ∧
      Takes d .p3 (Msg.new .cm (.segment .diag .stepDiag)) := by
  unfold Takes
  decide +kernel

/-- REFUSED at a frontier that is VACANT and at one that is a returned position. -/
theorem test_SegmentResultOfDiag_met_returned :
    let d : Dev := { docked with cm := { docked.cm with discovery := .powering } }
    let e := onEntry .p3 (fun x => { x with state := .held, returned := true, resume := none }) d
    d.frontierPos = some .p4 ∧ (d.entry .p4).isReturned = false ∧ e.frontierPos = some .p3 ∧ e.ahead = some .p2 ∧
      (e.entry .p3).isReturned = true ∧ (e.entry .p2).releasing = false ∧ e.anyReleasing = false ∧ e.cm.release = none ∧
      e.sc.undock = none := by decide +kernel

theorem test_SupplyResultEffect_met :
    let d : Dev := { docked with pcu := { docked.pcu with contract := .requested, offer := some 0 } }
    let r c := result .p1 .pcu (.supply 0 150 false false) c []
    (withOne (r .done) d).le.results = [r .done] ∧ (d.entry .p1).releasing = false ∧ d.pcu.contract = .requested ∧
      (r .refused).code = .refused ∧ (r .busyTimeout).code = .busyTimeout ∧ d.pcu.offer = some 0 := by decide +kernel

/-- What selection finds after a refusal: a pick, none with the base request, none without; and a pick among two. -/
theorem test_SupplyResultEffect_met_selection :
    let two : List Offer := [{ volt := 100, cur := 150, ignitionOnly := false }, { volt := 180, cur := 300, ignitionOnly := false }]
    let d (enabled refused supply : Byte) : Dev :=
      let e := onEntry .p1 (fun x => { x with caps := { x.caps with supply := some two } }) docked
      { e with pcu := { e.pcu with
        contract := .requested, offer := some 1, refused := refused
        live := { e.pcu.live with enabled := enabled, supply := supply } } }
    let u (x : Dev) : Dev := { x with pcu := { x.pcu with refused := x.pcu.refused ||| (1#8 <<< 1), owed := false } }
    ((u (d 3 0 2)).pick.map (fun c => c.1) = some 0 ∧ (d 3 0 2).pick.map (fun c => c.1) = some 1) ∧
      ((u (d 2 0 2)).pick = none ∧ (u (d 2 0 2)).pcu.refused.getLsbD 0 = false) ∧
      ((u (d 3 1 0)).pick = none ∧ (u (d 3 1 0)).pcu.refused.getLsbD 0 = true) ∧
      Takes (d 3 0 2) .p1 (Msg.new .pcu (.supply 0 150 false false)) ∧
      Takes (d 2 0 2) .p1 (Msg.new .pcu (.supply 0 150 true true)) := by
  unfold Takes
  decide +kernel

theorem test_CommitAndDiscardResults_met :
    let p : Posting := { ({ post := 7, withdraw := 0, next := 255, target := 2, x := 0, y := 0, w := 32, h := 32, source := 0x20000,
                            stride := 64, hostTag := 0 } : UpdateRecord).posting .p2 with state := .committing, tag := 3 }
    let d : Dev := { docked with dtu := { docked.dtu with posting := some p } }
    let r c := result .p2 .dtu (.commit 3) c []
    let q := result .p2 .dtu .discard .done []
    (withOne (r .done) d).le.results = [r .done] ∧ (d.entry .p2).releasing = false ∧ p.target = (r .done).pos ∧
      p.committed = false ∧ p.state = .committing ∧ (r .noReply).code = .noReply ∧
      Takes d .p2 (Msg.new .dtu (.commit 3)) ∧ (withOne q docked).le.results = [q] := by
  unfold Takes
  decide +kernel

theorem test_StatusBlockResultDone_met :
    let r := result .p2 .pcu (.statusBlock docked.currentBlock) .done []
    (withOne r docked).le.results = [r] ∧ r.payload = .statusBlock (withOne r docked).currentBlock ∧
      (docked.entry .p2).releasing = false ∧ (docked.entry .p2).state = .active := by decide +kernel

/-- An entry CONFIGURING that waits for its first block alone, at the cradle and behind it. -/
theorem test_StatusBlockResultDone_met_configuring :
    [(Pos.p1, DockState.bringup), (.p3, .docked)].all (fun x =>
      let d := configuring x.1 x.2 true
      let s := withOne (result x.1 .pcu (.statusBlock d.currentBlock) .done []) d
      s.le.results.any (fun r => r.payload == .statusBlock s.currentBlock) && (s.entry x.1).state == .configuring &&
        (s.cm.configuring.get x.1).sessionDone && (s.cm.configuring.get x.1).applyDone && !(s.entry x.1).releasing) = true := by
  decide +kernel

theorem test_ReleaseResultEffect_met :
    let rel : Release := { first := .p3, waits := (Per6.const false).set .p3 true, after := .keep }
    let q : Sequence := { step := .releasing .p1, timer := 40, empty := Per6.const false, forDisable := false }
    let d : Dev := { docked with cm := { docked.cm with release := some rel } }
    let u : Dev := { docked with sc := { docked.sc with dock := .releasing, sequence := some q } }
    let r := result .p3 .cm .release .noReply []
    let t := result .p1 .sc .release .done []
    ((withOne r d).le.results = [r] ∧ r.sub ≠ .sc ∧ d.cm.release = some rel) ∧
      ((withOne t u).le.results = [t] ∧ t.sub = .sc ∧ u.sc.sequence = some q ∧ q.step = .releasing .p1 ∧ u.sc.undock = none ∧
        u.cm.release = none ∧ u.anyReleasing = false) := by decide +kernel

/-- The next RELEASE up the chain, past an entry in a pending release. -/
theorem test_ReleaseResultEffect_met_next :
    let q : Sequence := { step := .releasing .p3, timer := 40, empty := Per6.const false, forDisable := false }
    let u : Dev := onEntry .p2 (fun e => { e with releasing := true })
      { docked with sc := { docked.sc with dock := .releasing, sequence := some q } }
    u.sc.sequence = some q ∧ (u.entry .p1).isVacant = false ∧ (u.entry .p1).releasing = false ∧ (u.entry .p2).releasing = true ∧
      Takes u .p1 (Msg.new .sc .release) := by
  unfold Takes
  decide +kernel

/-- A release of the last entries, with what follows it, its RELEASE messages returned. -/
def released (k : Pos) (after : AfterRelease) (d : Dev) : Dev :=
  let d := (behind k).foldl (fun d j => if (d.entry j).isVacant then d else d.onEntry j fun e => { e with releasing := true }) d
  { d with cm := { d.cm with release := some { first := k, waits := Per6.const false, after := after } } }

/-- The frontier of ReleaseCompleteResult: the lowest position vacant, releasing or returned. -/
def frontierThen (d : Dev) : Nat :=
  match Pos.all.find? (fun k => (d.entry k).isVacant || (d.entry k).releasing || (d.entry k).isReturned) with
  | some k => k.toNat
  | none => 7

/-- Each cause of a release behind the cradle; the frontier ahead of it; and an answer held through it. -/
theorem test_ReleaseCompleteResult_met :
    let i : Identity := { kind := .keyboard, vendor := 1, product := 2, revision := 3, serial := 4 }
    let d a := released .p3 a docked
    let ahead := released .p3 .deferred (onEntry .p2 (fun e => { e with state := .held, returned := true }) docked)
    ([AfterRelease.keep, .deferred, .waiting, .faulted, .faultTimer, .take .p3 i].all (fun a =>
        (d a).cm.release.any (fun r => !r.isWaiting && r.after == a && decide (r.first.toNat ≤ frontierThen (d a))) &&
          (d a).sc.undock.isNone && (d a).sc.sequence.isNone && !((d a).entry .p1).releasing && ((d a).entry .p3).releasing &&
          !((d a).entry .p2).releasing && (d a).sc.dock == .docked) = true) ∧
      (frontierThen ahead < Pos.p3.toNat ∧ (ahead.entry .p3).releasing = true) ∧ (d .deferred).cm.discovery ≠ .shut := by
  decide +kernel

/-- RELEASE_COMPLETE while the release sequence runs: with an answer held through the release, and without one. -/
theorem test_ReleaseCompleteResult_met_sequence :
    let i : Identity := { kind := .keyboard, vendor := 1, product := 2, revision := 3, serial := 4 }
    let q : Sequence := { step := .drain, timer := 0, empty := Per6.const false, forDisable := false }
    let d a : Dev := released .p3 a { docked with sc := { docked.sc with dock := .releasing, sequence := some q } }
    ([AfterRelease.waiting, .take .p3 i].all (fun a =>
        (d a).cm.release.any (fun r => !r.isWaiting && r.after == a) && (d a).sc.undock.isNone && (d a).sc.sequence == some q &&
          ((d a).entry .p3).releasing && !((d a).entry .p1).releasing && (d a).sc.dock == .releasing) = true) ∧
      ((d (.take .p3 i)).completeRelease.entry .p3).state = .probed ∧
      ((d (.take .p3 i)).completeRelease.entry .p3).identity = i := by decide +kernel

/-- A chain that is SHUT stays SHUT behind a release of an entry a late answer brought in (R73). -/
theorem test_shut_stays_shut :
    let d : Dev := { released .p3 .deferred docked with cm := { (released .p3 .deferred docked).cm with discovery := .shut } }
    d.completeRelease.cm.discovery = .shut ∧ (d.completeRelease.entry .p3).state = .vacant ∧ d.completeRelease.cm.release = none := by
  decide +kernel

/-- An undock with no entry in the table leaves of a PROBE(1) answered DONE no more than GONE (R43, R89). -/
theorem test_undock_discards_the_probe_answer :
    let d : Dev := withOne (result .p1 .sc .probe .done [1, 0, 0, 0, 0, 0, 0, 0, 0, 0]) (part .running .bringup)
    ((d.undock none .undocked []).le.results.all fun r => r.code == .gone) = true ∧ (d.undock none .undocked []).sc.dock = .undocked := by
  decide +kernel

/-- A release that covers the cradle, with the sense line active and not, and the completion in an undock. -/
theorem test_ReleaseCompleteResult_met_cradle :
    let d (l : Option Bool) : Dev := { released .p1 .deferred docked with sc := { docked.sc with sense := l } }
    let u (f : Following) : Dev := { d none with sc := { docked.sc with undock := some { reason := some .released, following := f } } }
    ([none, some true].all (fun l => ((d l).entry .p1).releasing && (d l).sc.undock.isNone && (d l).xp.part == .running &&
        (d l).sc.dock == .docked && (d l).cm.release.any (fun r => !r.isWaiting)) = true) ∧
      ([Following.released, .undocked, .bringup, .bySense].all (fun f => (u f).xp.part == .running && 
        (u f).sc.undock.any (fun x => x.following == f) && (u f).cm.release.any (fun r => !r.isWaiting)) = true) := by
  decide +kernel

/-- The last entry is LOST. -/
def lastLost : Dev := onEntry .p3 (fun e => { e with state := .lost, resume := some .active, lostAt := some 400 }) docked

theorem test_ResumeTimerResult_met :
    let d : Dev := { lastLost with cm := { lastLost.cm with resumeTimer := 100 } }
    d.lowestLost = some .p3 ∧ 100 ≤ d.cm.resumeTimer ∧ d.sc.undock = none ∧ d.sc.dock = .docked ∧
      (part .running .bringup).sc.dock = .bringup ∧ (d.entry .p3).releasing = false ∧ d.resumeOut .p3 .cm = false ∧
      d.resumeOut .p3 .sc = false ∧ Takes d .p3 (Msg.new .cm (.resume d.sc.session)) := by
  unfold Takes
  decide +kernel

theorem test_LostExpiryResult_met :
    let d : Dev := { lastLost with sc := { lastLost.sc with holdLimit := 100 } }
    ((d.entry .p3).state = .lost ∧ (d.entry .p3).lostAt = some 400 ∧ d.sc.holdLimit.toNat ≤ (d.le.stamp - 400).toNat ∧
        Pos.p3 ≠ .p1 ∧ d.sc.dock = .docked ∧ d.sc.undock = none ∧ d.sc.sequence = none ∧ d.anyReleasing = false ∧
        d.cm.release = none ∧ d.cm.discovery ≠ .locating ∧ Pos.p3.toNat ≤ d.frontier ∧ d.cm.discovery ≠ .shut) ∧
      ∀ j : Pos, Pos.p3.toNat < j.toNat → (d.entry j).isVacant = true := by
  refine ⟨by decide +kernel, fun j => ?_⟩
  cases j <;> decide +kernel

/-- The frontier ahead of the entry that expires, and a chain that is SHUT. -/
theorem test_LostExpiryResult_met_left :
    let a := onEntry .p2 (fun e => { e with state := .held, returned := true }) lastLost
    let h : Dev := { lastLost with cm := { lastLost.cm with discovery := .shut } }
    a.frontier < Pos.p3.toNat ∧ [a, h].all (fun d => (d.entry .p3).state == .lost && d.sc.dock == .docked && !d.anyReleasing &&
      d.cm.release.isNone && d.cm.discovery != .locating) = true ∧ h.cm.discovery = .shut := by decide +kernel

/-- DOCKED with discovery in a state, its timers and its code. -/
def discovery (s : Discovery) (step frontier : Nat) (code : Option SenseCode) : Dev :=
  { docked with cm := { docked.cm with
      discovery := s, stepTimer := step, frontierTimer := frontier, recheck := true, codeRead := code } }

theorem test_DiscoveryCommands_met :
    [discovery .waiting 0 0 none, discovery .complete 0 2000 none, discovery .faulted 0 2000 none,
        discovery .deferred 0 2000 none].all (fun d =>
      d.sc.dock = .docked ∧ d.sc.undock = none ∧ d.anyLost = false ∧ d.anyReleasing = false ∧ d.bringOnOut = false ∧
        d.frontierPos = some .p4 ∧ d.ahead = some .p3 ∧ (d.entry .p3).inUse = true ∧ (d.entry .p3).seg ≠ .none ∧
        (d.goneAtOnce .p3 (Msg.new .cm (.segment .diag .stepDiag)) = false ∧
          queueFull (d.queue .p3) (Msg.new .cm (.segment .diag .stepDiag)) = false) ∧
        (d.cm.discovery = .waiting ∨ 2000 ≤ d.cm.frontierTimer ∧ d.cm.recheck = true)) = true := by
  decide +kernel

/-- WAITING with no switched port ahead, the frontier VACANT and a returned position; and a chain that is full. -/
theorem test_DiscoveryCommands_met_end :
    let d := onEntry .p3 (fun e => { e with seg := .none }) (discovery .waiting 0 0 none)
    let e := onEntry .p4 (fun x => { x with state := .held, returned := true }) d
    let f : Dev := { discovery .waiting 0 0 none with cm := { (discovery .waiting 0 0 none).cm with
      table := Per6.const (keyboard .active) } }
    [(d, Pos.p3), (e, .p3), (f, .p6)].all (fun x =>
      x.1.cm.discovery == .waiting && x.1.sc.dock == .docked && x.1.sc.undock.isNone && !x.1.anyLost && !x.1.anyReleasing &&
        !x.1.bringOnOut && x.1.ahead == some x.2 && (x.1.entry x.2).inUse) = true ∧
      (d.entry .p3).seg = .none ∧ d.frontierPos = some .p4 ∧ (d.entry .p4).isReturned = false ∧
      e.frontierPos = some .p4 ∧ (e.entry .p4).isReturned = true ∧ e.cm.release = none ∧ f.frontierPos = none := by
  decide +kernel

theorem test_ObservationEndResult_met :
    let c := discovery .observing 20 0 (some .clean)
    let f := discovery .observing 0 0 (some .openWire)
    (c.frontierPos = some .p4 ∧ c.cm.discovery = .observing ∧ c.cm.offWait = false ∧ c.sc.dock = .docked ∧ c.sc.undock = none ∧
        c.anyLost = false ∧ c.cm.codeRead = some .clean ∧ 20 ≤ c.cm.stepTimer ∧ c.probeOut .p4 .cm = false ∧
        Takes c .p4 (Msg.new .cm .probe)) ∧
      (f.frontierPos = some .p4 ∧ f.cm.discovery = .observing ∧ f.cm.offWait = false ∧ f.sc.dock = .docked ∧
        f.sc.undock = none ∧ f.anyLost = false ∧ f.cm.codeRead = some .openWire ∧ SenseCode.openWire.sort = .partial_ ∧
        Pos.p4.prev? = some .p3 ∧ (f.entry .p4).isReturned = false) := by
  unfold Takes
  decide +kernel

/-- NO_LOAD at a VACANT and at a returned frontier; a concealed code in the initial pass and after it. -/
theorem test_ObservationEndResult_met_end :
    let n := discovery .observing 20 0 (some .noLoad)
    let r := onEntry .p4 (fun x => { x with state := .held, returned := true }) n
    let c (b : Bool) : Dev := { discovery .observing 0 0 (some .negToChassis) with
      cm := { (discovery .observing 0 0 (some .negToChassis)).cm with initialPass := b } }
    [n, r, c true, c false].all (fun d =>
      d.frontierPos == some .p4 && d.cm.discovery == .observing && !d.cm.offWait && d.sc.dock == .docked && d.sc.undock.isNone &&
        !d.anyLost && !d.anyReleasing && d.cm.release.isNone) = true ∧
      (n.entry .p4).isReturned = false ∧ (r.entry .p4).isReturned = true ∧ 20 ≤ n.cm.stepTimer ∧
      Takes n .p3 (Msg.new .cm (.segment .off .endOff)) ∧ SenseCode.negToChassis.sort = .concealed ∧
      (onEntry .p4 (fun x => { x with state := .held, returned := true }) (c false)).frontierPos = some .p4 ∧
      (c false).sc.sequence = none ∧
      (c true).cm.initialPass = true ∧ (c false).cm.initialPass = false ∧ (c false).cm.isRetry = false := by
  unfold Takes
  decide +kernel

/-- A critical code about a segment still in DIAG during locate; and UNLOCATED that stands for the code already, or for another. -/
theorem test_ObservationEndResult_met_locate :
    let d : Dev := onEntry .p3 (fun e => { e with seg := .diag })
      { answering with cm := { answering.cm with
          discovery := .locating, locate := { answering.cm.locate with step := .bringingIn, seg := .p4 } } }
    let u : Dev := { answering with cm := { answering.cm with segs := answering.cm.segs.set .p4 { SegRecord.init with
      standing := some { code := .unlocated, sense := some .negToChassis, localized := false } } } }
    d.cm.discovery = .locating ∧ (d.entry .p3).seg = .diag ∧ (d.entry .p3).isVacant = false ∧ (d.entry .p3).isAway = false ∧
      d.cm.locate.step ≠ .idle ∧ (d.inFlight .p3 false).isNone = true ∧
      good d .p3 (frame 3 1 0 [] [] [2, SenseCode.posToChassis.code]) (fun a => a.sense.isSome) = true ∧
      SenseCode.posToChassis.sort = .critical ∧
      u.unlocatedStands .p4 = true ∧ u.standsFor .p4 .negToChassis = true ∧ u.standsFor .p4 .posToBattery = false := by
  decide +kernel

/-- A code of the keyboard's ANSWER on the watch, its fourth report, the initial pass over or not; and a critical one in an observation. -/
theorem test_ObservationEndResult_met_watch :
    let d (s : Discovery) (b : Bool) : Dev := { answering with cm := { answering.cm with
      discovery := s, initialPass := b, segs := answering.cm.segs.set .p4 { SegRecord.init with confirm := 3 } } }
    Pos.p3.next? = some .p4 ∧
      [d .complete true, d .complete false, d .observing false].all (fun x =>
        (x.entry .p3).state == .active && (x.entry .p3).seg == .on && x.sc.dock == .docked && x.sc.undock.isNone &&
          x.sc.sequence.isNone && !x.anyReleasing && x.cm.release.isNone && (x.cm.segs.get .p4).confirm == 3 &&
          (x.inFlight .p3 false).isNone &&
          [SenseCode.posToChassis, .openWire, .negToChassis].all fun c =>
            good x .p3 (frame 3 1 0 [] [] [2, c.code]) fun a => a.sense == some c.code && SenseCode.ofCode? c.code == some c) = true ∧
      Discovery.complete.isStep = false ∧ (d .observing false).frontier = Pos.p4.toNat ∧ (d .observing false).cm.offWait = false ∧
      SenseCode.posToChassis.sort = .critical ∧ SenseCode.openWire.sort = .partial_ ∧ SenseCode.negToChassis.sort = .concealed := by
  decide +kernel

/-- Locate under way at a segment. -/
def locating (step : LocateStep) (k : Pos) (timer : Nat) (code : Option SenseCode) : Dev :=
  { docked with cm := { docked.cm with
      discovery := .locating, codeRead := code
      locate := { docked.cm.locate with step := step, seg := k, timer := timer, offDone := true } } }

theorem test_LocateCommands_met :
    let s := locating .settling .p2 100 none
    let c := locating .observing .p4 100 (some .clean)
    let f := locating .observing .p2 0 (some .negToChassis)
    (s.cm.discovery = .locating ∧ s.cm.locate.step = .settling ∧ s.cm.locate.offDone = true ∧ 100 ≤ s.cm.locate.timer ∧
        s.sc.dock = .docked ∧ s.sc.undock = none ∧ s.anyLost = false ∧ s.anyReleasing = false ∧
        (s.entry .p1).inUse = true ∧ (s.entry .p1).seg ≠ .none ∧ Takes s .p1 (Msg.new .cm (.segment .diag .locateDiag))) ∧
      (c.cm.locate.step = .observing ∧ c.cm.locate.seg = .p4 ∧ c.cm.codeRead = some .clean ∧ 100 ≤ c.cm.locate.timer ∧
        c.probeOut .p4 .cm = false ∧ Takes c .p4 (Msg.new .cm .probe)) ∧
      (f.cm.locate.step = .observing ∧ f.cm.locate.seg = .p2 ∧ f.sc.dock = .docked ∧ f.sc.undock = none ∧
        f.anyLost = false ∧ f.cm.codeRead = some .negToChassis ∧ SenseCode.negToChassis.sort = .concealed) := by
  unfold Takes
  decide +kernel

/-- The sense line with a kept level and run count. -/
def sensed (p : PartState) (k : DockState) (level : Option Bool) (run : W16) : Dev :=
  { part p k with sc := { (part p k).sc with sense := level, senseRun := run, releasedTimer := 10000 } }

/-- The samples, of DockSenseSamples and of the DOCK_SENSE clauses of DockChangesBySense. -/
theorem test_DockSenseSamples_met :
    docked.working = true ∧ (part .starting .undocked).working = false ∧ docked.sc.sampled = false ∧
      (sensed .running .docked (some true) 0xFFFF).sc.senseRun = 0xFFFF ∧ (sensed .stopping .docked (some true) 0xFFFE).working = true ∧
      (sensed .running .docked (some true) 0xFFFE).sc.senseRun ≠ 0xFFFF ∧ (sensed .running .docked none 0).sc.sense ≠ some true ∧
      (sensed .running .undocked none 0).sc.dock = .undocked ∧ (sensed .running .detecting (some true) 9).sc.dock = .detecting := by
  decide +kernel

theorem test_DockChangesBySense_met :
    let a := sensed .running .detecting (some true) 50
    let b : Dev := { sensed .running .released (some true) 3 with sc := { (sensed .running .released (some true) 3).sc with session := 0xFFFF } }
    let c := sensed .stopping .released (some false) 50
    (a.xp.part = .running ∧ a.sc.sense = some true ∧ a.sc.dock = .detecting ∧ 50 ≤ a.sc.senseRun.toNat ∧
        a.sc.session ≠ 0xFFFF ∧ Takes a .p1 (Msg.new .sc .probe)) ∧
      (b.xp.part = .running ∧ b.sc.sense = some true ∧ b.sc.dock = .released ∧ 10000 ≤ b.sc.releasedTimer ∧
        b.sc.session = 0xFFFF ∧ Takes b .p1 (Msg.new .sc .probe)) ∧
      (c.working = true ∧ c.sc.sense = some false ∧ 50 ≤ c.sc.senseRun.toNat ∧ c.sc.dock = .released) := by
  unfold Takes
  decide +kernel

/-- The bring-up given up, with the cradle's entry in the table and with none. -/
theorem test_DockChangesBySense_met_bringup :
    let d := sensed .running .bringup (some false) 50
    let e : Dev := { d with cm := { d.cm with table := d.cm.table.set .p1 (cradle .reading) } }
    [d, e].all (fun x => x.working && x.sc.sense == some false && decide (50 ≤ x.sc.senseRun.toNat) && x.sc.dock == .bringup &&
        x.sc.undock.isNone && x.cm.release.isNone && !x.anyReleasing) = true ∧
      d.last = 0 ∧ e.last ≠ 0 ∧ (e.entry .p1).isVacant = false := by decide +kernel

theorem test_BringupCommands_met :
    let d : Dev := { part .running .bringup with sc := { (part .running .bringup).sc with probeTimer := 10, bringupTimer := 500 } }
    d.sc.dock = .bringup ∧ d.sc.undock = none ∧ 10 ≤ d.sc.probeTimer ∧ (d.entry .p1).isVacant = true ∧
      d.probeOut .p1 .sc = false ∧ Takes d .p1 (Msg.new .sc .probe) ∧ 500 ≤ d.sc.bringupTimer ∧ d.sc.probeAnswered = false ∧
      d.sc.noCradle = false := by
  unfold Takes
  decide +kernel

theorem test_HoldingCommands_met :
    let d : Dev := { docked with
      sc := { docked.sc with dock := .holding, tickTimer := 10, holdTimer := 1500, sense := some true }
      le := { docked.le with queues := docked.le.queues.set .p1 (List.replicate 6 (Msg.new .ir (.set [] 0))) } }
    let e : Dev := { d with sc := { d.sc with sense := none } }
    d.last ≠ 0 ∧ d.sc.dock = .holding ∧ d.sc.undock = none ∧ 10 ≤ d.sc.tickTimer ∧ d.resumeOut .p1 .sc = false ∧ d.probeOut .p1 .sc = false ∧
      (d.entry .p1).releasing = false ∧ (d.queue .p1).length ≤ 6 ∧ d.sc.holdLimit.toNat ≤ d.sc.holdTimer ∧
      d.anyReleasing = false ∧ d.cm.release = none ∧ d.sc.sense = some true ∧ d.xp.part = .running ∧ e.sc.sense ≠ some true := by
  decide +kernel

/-- Both ways the drain ends: a chain whose keyboard has shown its buffer empty, and the 100th superframe. -/
theorem test_InputDrainEndResult_met :
    let q : Sequence := { step := .drain, timer := 0, empty := (Per6.const false).set .p3 true, forDisable := false }
    let r : Sequence := { step := .drain, timer := 100, empty := Per6.const false, forDisable := true }
    let d (x : Sequence) : Dev := { docked with sc := { docked.sc with dock := .releasing, sequence := some x } }
    ((d q).sc.sequence = some q ∧ q.step = .drain ∧ (d q).drained q = true ∧ Pos.ofNat? (d q).last = some .p3 ∧
        ((d q).entry .p3).releasing = false ∧ Takes (d q) .p3 (Msg.new .sc .release)) ∧
      ((d r).sc.sequence = some r ∧ (d r).drained r = false ∧ 100 ≤ r.timer) := by
  unfold Takes
  decide +kernel

theorem test_ScanResult_met :
    let d : Dev := { docked with xp := { docked.xp with scanDue := true } }
    let e : Dev := { d with ir := { d.ir with pass := some (ScanPass.start .global) } }
    d.working = true ∧ d.xp.scanDue = true ∧ d.xp.windowStall = false ∧ d.ir.pass = none ∧ e.ir.pass.isSome = true := by
  decide +kernel

/-- A scan in a superframe whose read of the taken count has been made asks for no second one (R178). -/
theorem test_scan_reads_the_taken_count_once :
    let d (a : Bool) : Dev := { docked with ic := { docked.ic with asked := a }, xp := { docked.xp with scanDue := true } }
    ([true, false].map fun a => (d a).scan.ic.takenDue) = [false, true] := by decide +kernel

/-- A pass at a record and a step, its read in the engine. -/
def reading (r : IntentRec) (s : ReadStep) : Dev :=
  engine (.intent r s) { docked with ir := { docked.ir with
    pass := some { record := r, step := s, closeGen := 4, globalData := 0, nodeData := 0 } } }

/-- The 40 bytes of a good global record: hold-over limit 100, voltages 100 to 400, the serials of locate, chain retry and release. -/
def globalBits (l c r : Nat) : BitVec 320 :=
  BitVec.ofNat 320 (100 + 100 * 2 ^ 16 + 400 * 2 ^ 32 + l * 2 ^ 160 + c * 2 ^ 192 + r * 2 ^ 224)

/-- A good global record in a docked part: the first one, one that moves no serial, and one for each serial that moves. -/
theorem test_IntentReadResult_met_global :
    let d (taken : Bool) (l c r : Nat) : Dev := engine (.intent .global .openGen) { docked with
      cm := { docked.cm with discovery := .faulted }
      ir := { docked.ir with
        globalTaken := taken
        pass := some { record := .global, step := .openGen, closeGen := 4, globalData := globalBits l c r, nodeData := 0 } } }
    [(false, 1, 1, 1), (true, 0, 0, 0), (true, 0, 0, 1), (true, 0, 1, 0), (true, 1, 0, 0)].all (fun x =>
      let s := d x.1 x.2.1 x.2.2.1 x.2.2.2
      let g := globalRecord (globalBits x.2.1 x.2.2.1 x.2.2.2)
      s.ir.pass.any (fun p => checkGlobal p.globalData == .accepted g) && s.ir.globalTaken == x.1 && s.sc.dock == .docked &&
        s.sc.undock.isNone && (g.locateSerial == s.cm.locateSerial) == (x.2.1 == 0) &&
        (g.chainSerial == s.cm.chainSerial) == (x.2.2.1 == 0) && (g.releaseSerial == s.sc.releaseSerial) == (x.2.2.2 == 0) &&
        s.cm.discovery == .faulted && s.lowestFailed.isNone && !s.anyReleasing && s.cm.release.isNone) = true := by
  decide +kernel

/-- A release serial that moved in BRINGUP and in HOLDING; and a node record with a bad field. -/
theorem test_IntentReadResult_met_more :
    [DockState.bringup, .holding].all (fun k =>
      let s : Dev := engine (.intent .global .openGen) { docked with
        sc := { docked.sc with dock := k }
        ir := { docked.ir with
          globalTaken := true
          pass := some { record := .global, step := .openGen, closeGen := 4, globalData := globalBits 0 0 1, nodeData := 0 } } }
      s.ir.globalTaken && s.sc.dock == k && s.sc.undock.isNone && s.ir.pass.any fun p => match checkGlobal p.globalData with
        | .accepted g => g.releaseSerial != s.sc.releaseSerial && g.chainSerial == s.cm.chainSerial &&
            g.locateSerial == s.cm.locateSerial
        | .refused _ => false) = true ∧
      checkNode 0xFF = .refused 0x08 ∧ (reading (.node .p3) .openGen).readable .p3 = true := by decide +kernel

theorem test_IntentReadResult_met :
    [(IntentRec.global, ReadStep.close), (.node .p3, .close), (.global, .fields), (.node .p6, .fields), (.global, .openGen),
        (.node .p3, .openGen)].all (fun x =>
      (reading x.1 x.2).xp.engine = some (.intent x.1 x.2) ∧
        (reading x.1 x.2).ir.pass = some { record := x.1, step := x.2, closeGen := 4, globalData := 0, nodeData := 0 }) = true ∧
      (1#32 ≠ (reading .global .close).appliedGenOf .global ∧ 1#32 ≠ 0) ∧
      (reading .global .openGen).mayTake .global = true ∧ (reading (.node .p3) .openGen).mayTake (.node .p3) = true ∧
      checkGlobal 0 = .refused 0x08 ∧
      checkGlobal (globalBits 0 0 0) = .accepted (globalRecord (globalBits 0 0 0)) ∧ (reading (.node .p3) .openGen).readable .p3 = true ∧
      checkNode 0 = .accepted (nodeRecord 0) := by decide +kernel

theorem test_SettingCommands_met :
    let a : Attention := { pattern := .long, timer := 1000 }
    let d : Dev := { docked with ir := { docked.ir with pos := docked.ir.pos.modify .p3 fun p => { p with attention := some a } } }
    d.differing .p3 ≠ [] ∧ (d.entry .p3).state = .active ∧ (d.entry .p3).releasing = false ∧ (d.ir.pos.get .p3).push = none ∧
      (d.ir.pos.get .p3).blocked = none ∧ d.sc.dock ≠ .releasing ∧ d.settingOut .p3 = false ∧
      Takes d .p3 (Msg.new .ir (.set ((d.differing .p3).take 6) 0)) ∧ (d.ir.pos.get .p3).attention = some a ∧ 1000 ≤ a.timer := by
  unfold Takes
  decide +kernel

/-- A line that is sampled, at its twentieth equal sample. -/
def sampledLine (f : LineFn) : LineState :=
  { LineState.init with fn := f, result := .placed, stable := .inactive, candidate := some true, run := 20, role := some .input }

theorem test_LineDebounceResult_met :
    let d f : Dev := { docked with slu := { docked.slu with lines := docked.slu.lines.set .l3 (sampledLine f) } }
    [LineFn.moving, .crank, .release].all (fun f =>
      (sampledLine f) = (d f).slu.lines.get .l3 ∧ (sampledLine f).sampled = true ∧ 20 ≤ (sampledLine f).run ∧
        (sampledLine f).target ≠ (sampledLine f).stable ∧ (sampledLine f).stable = .inactive ∧
        (sampledLine f).target = .active ∧ (d f).sc.dock = .docked ∧ (d f).sc.undock = none) = true := by decide +kernel

theorem test_PowerTimers_met :
    let d : Dev := { docked with pcu := { docked.pcu with contract := .transition, transTimer := 500, offer := some 0 } }
    let b : Dev := { docked with pcu := { docked.pcu with braced := true, clearCount := 200 } }
    (d.pcu.contract = .transition ∧ 500 ≤ d.pcu.transTimer ∧ d.pcu.offer = some 0) ∧
      (b.pcu.braced = true ∧ b.pcu.live.dip = false ∧ b.slu.crank = false ∧ 200 ≤ b.pcu.clearCount) := by decide +kernel

theorem test_GrantsWithinBudget_met :
    let d n : Dev := { docked with pcu := { docked.pcu with live := { docked.pcu.live with budget := n } } }
    let f (x : Dev) : Dev := { x with pcu := { x.pcu with braced := false } }
    let b : Dev := { d 200 with pcu := { (d 200).pcu with braced := true } }
    (d 100).bases ≤ (d 100).pcu.live.budget.toNat ∧ (d 99).pcu.live.budget.toNat < (d 99).bases ∧
      ((d 200).counted .p2 = true ∧ ((d 200).entry .p2).caps.power.isSome = true ∧ ((d 200).entry .p2).caps.display.isSome = true ∧
        (d 120).allocate.pcu.grantDisplay.get .p2 = 8 ∧ (d 119).allocate.pcu.grantDisplay.get .p2 = 0) ∧
      (f b).pcu.braced = false ∧ b.allocationDue (f b) = true ∧ ∃ t, (start b).runSettled f = .next t := by
  refine ⟨by decide +kernel, by decide +kernel, by decide +kernel, by decide +kernel, by decide +kernel, _, rfl⟩

theorem test_CursorReadResult_met :
    let f := engine .firstIndex docked
    let d := engine (.record 63) docked
    let u := updateRecord (record 5 4)
    (f.xp.engine = some .firstIndex ∧ (63#8).toNat < 64 ∧ 64 ≤ (64#8).toNat ∧ 64 ≤ (255#8).toNat) ∧
      d.xp.engine = some (.record 63) ∧ (updateRecord (record 0 4)).post = d.serialOf 63 ∧
      (updateRecord (record 5 5)).post ≠ d.serialOf 63 ∧ (updateRecord (record 5 5)).withdraw = (updateRecord (record 5 5)).post ∧
      (u.post ≠ d.serialOf 63 ∧ u.withdraw ≠ u.post ∧ d.sc.dock = .docked ∧ d.xp.part = .running ∧
        Pos.ofNat? u.target.toNat = some .p2 ∧ (d.entry .p2).state = .active ∧
        d.postingFault .p2 u.x u.y u.w u.h u.stride = none) := by decide +kernel

theorem test_PostingProgress_met :
    let p : Posting := { (updateRecord (record 5 4)).posting .p2 with
      state := .sending, timer := 64, sendPoint := 4, received := 3, size := 4 }
    let d : Dev := { docked with dtu := { docked.dtu with posting := some p, readyNo := 6 } }
    d.dtu.posting = some p ∧ (engine (.pixels 3 6 []) d).xp.engine = some (.pixels 3 6 []) ∧ 5 ≠ d.dtu.readyNo ∧ 6 = d.dtu.readyNo ∧
      Takes (engine (.pixels 3 6 []) d) p.target (Msg.new .dtu .discard) ∧ p.state = .sending ∧ 0 < p.timer ∧ p.timer % 4 = 0 ∧
      p.received < p.sendPoint ∧ p.state ≠ .waiting ∧ 64 ≤ p.timer := by
  unfold Takes
  decide +kernel

theorem test_OutcomeWriteResult_met :
    let o : OutcomeWrite := { outcome := .done, reason := .none, split := false, tilesSent := 4, commits := 1, stamp := 500, serial := 5
                              hostTag := 0, fieldsWritten := true }
    let d := engine (.outcomeSerial 63) { docked with dtu := { docked.dtu with outcome := some o } }
    d.xp.engine = some (.outcomeSerial 63) ∧ d.dtu.outcome = some o := by decide +kernel

/-- Counts 512 and 513 behind the write count, an entry in staging, and write counts equal and not equal to the one last written. -/
theorem test_JournalCommands_met :
    let i : Item := { kind := .dock, position := 0, direction := 0xFF, seq := 0xFF, detail := 0xFFFF, stamp := 500 }
    let d : Dev := { docked with ic := { docked.ic with writeCount := 513, written := 513, staging := [i] } }
    (engine .takenCount d).xp.engine = some .takenCount ∧ (d.ic.writeCount - 1).toNat ≤ 512 ∧
      512 < (d.ic.writeCount - 0).toNat ∧ (engine .journal d).xp.engine = some .journal ∧ d.ic.staging = [i] ∧
      (engine (.writeCount 513) d).xp.engine = some (.writeCount 513) ∧ (513 : W32) = d.ic.written ∧ (514 : W32) ≠ d.ic.written := by
  decide +kernel

/-- An entry that may be written: 511 ahead of the last valid taken count; and one that is offered. -/
theorem test_JournalCommands_met_offer :
    let i : Item := { kind := .dock, position := 0, direction := 0xFF, seq := 0xFF, detail := 0xFFFF, stamp := 500 }
    let d (w : W32) : Dev := { docked with ic := { docked.ic with
      writeCount := w, written := w, staging := [i], taken := some 1, takenFirst := false } }
    (d 512).work .ic = some .journal ∧ (d 513).work .ic ≠ some .journal ∧
      (d 512).offerAll.xp.offered.ic = some .journal := by decide +kernel

theorem test_SectionCommands_met :
    let moved : EntryWritten := { EntryWritten.vacant with state := .probed }
    let d : Dev := { docked with pub := { docked.pub with entryCarried := docked.pub.entryCarried.set .p6 moved } }
    (engine (.publish (.entry .p6) .close) d).xp.engine = some (.publish (.entry .p6) .close) ∧
      (d.pub.entryCarried.get .p6).state ≠ (d.pub.entryWritten.get .p6).state ∧
      (d.pub.entryCarried.get .p1).state = (d.pub.entryWritten.get .p1).state ∧
      (d.pub.entryCarried.get .p1).identity = (d.pub.entryWritten.get .p1).identity ∧
      (engine (.publish (.applied .p1) .close) d).xp.engine = some (.publish (.applied .p1) .close) ∧
      (engine (.publish .globalApplied .close) d).xp.engine = some (.publish .globalApplied .close) ∧
      (engine (.faultTotal 1) d).xp.engine = some (.faultTotal 1) := by decide +kernel

/-- Each requester at its turn: a counter's word, a section, a pass, a taken count due, and a posting in GATE. -/
theorem test_GrantResult_met :
    let w : Dev := { docked with pub := { docked.pub with counters := docked.pub.counters.set .errors true } }
    let e : Dev := { docked with pub := { docked.pub with entry := docked.pub.entry.modify .p1 Sec.want } }
    let p : Dev := { docked with ir := { docked.ir with pass := some (ScanPass.start .global) } }
    let t : Dev := { docked with ic := { docked.ic with takenDue := true } }
    let g : Dev := { docked with
      dtu := { docked.dtu with posting := some { (updateRecord (record 5 4)).posting .p2 with state := .gate, size := 4 } } }
    docked.working = true ∧ docked.xp.engine = none ∧ docked.xp.stallAreaOwed = false ∧ docked.xp.windowStall = false ∧
      docked.pcie.busMaster = true ∧ docked.offerAll.nextGrant = none ∧
      w.offerAll.nextGrant = some (.xp, .header (.counter .errors)) ∧
      e.offerAll.nextGrant = some (.cm, .publish (.entry .p1) .openGen) ∧
      p.offerAll.nextGrant = some (.ir, .intent .global .close) ∧ t.offerAll.nextGrant = some (.ic, .takenCount) ∧
      (g.offerAll.nextGrant.any fun x => x.1 == .dtu && x.2.isPixels) = true := by decide +kernel

/-- A request that waits for the engine. -/
def waiting (r : Requester) (a : Access) (d : Dev) : Dev :=
  { d with xp := { d.xp with offered := d.xp.offered.set r (some a) } }

/-- Every other access a grant makes, its request waiting: the steps of a section, an initial write, the outcome and the reads. -/
theorem test_GrantResult_met_accesses :
    let o : OutcomeWrite := { outcome := .done, reason := .none, split := false, tilesSent := 4, commits := 1, stamp := 500, serial := 5
                              hostTag := 0, fieldsWritten := false }
    let d : Dev := { docked with dtu := { docked.dtu with outcome := some o } }
    let i : Dev := { part .starting .undocked with xp := { (part .starting .undocked).xp with initial := some 0 } }
    ([(Requester.cm, Access.publish (.slot 15) .openGen), (.cm, .publish (.entry .p6) .fields), (.ir, .publish .chain .close),
        (.ir, .publish (.applied .p1) .close), (.dtu, .outcomeFields 63), (.xp, .faultTotal 1), (.ic, .journal),
        (.ic, .writeCount 1), (.ic, .takenCount), (.dtu, .outcomeSerial 63), (.dtu, .firstIndex), (.dtu, .record 63),
        (.dtu, .nextIndex 0), (.dtu, .pixels 0 0 []), (.ir, .intent (.node .p6) .fields)].all (fun x =>
      (waiting x.1 x.2 d).nextGrant == some (x.1, x.2)) = true) ∧ 15 < d.pub.slots.length ∧
      SecId.chain.hasRow = false ∧ (SecId.applied .p1).hasRow = true ∧ d.dtu.outcome = some o ∧
      i.nextGrant = some (.xp, .initial 0) ∧ (i.initialWrite 0).isSome = true := by decide +kernel

/-- During a stall: the write of the stall area waits its turn behind a pixel read, then the retry does; and at the stall's end
it comes first (R177, R179). -/
theorem test_GrantResult_met_stall :
    let stalled (last : Requester) : Dev := waiting .dtu (.pixels 0 0 []) { docked with
      xp := { docked.xp with windowStall := true, stallAreaOwed := true, retryOffered := true, lastServed := last } }
    let d := stalled .ic
    let cleared : Dev := { d with xp := { d.xp with windowStall := false } }
    let wrote : Dev := { d with xp := { d.xp with stallAreaOwed := false, lastServed := .dtu } }
    (d.working = true ∧ d.xp.engine = none ∧ d.xp.windowStall = true ∧ d.stallPixels = some (.pixels 0 0 [])) ∧
      d.nextGrant = some (.dtu, .pixels 0 0 []) ∧ (stalled .dtu).nextGrant = some (.xp, .header .stallArea) ∧
      wrote.nextGrant = some (.xp, .layout true) ∧
      (cleared.xp.windowStall = false ∧ cleared.xp.stallAreaOwed = true ∧ cleared.nextGrant = some (.xp, .header .stallArea)) := by
  decide +kernel

/-- A hold freezes locate: the results of its OFF and DIAG leave its step where it stands (R79). -/
theorem test_hold_freezes_locate :
    let d (st : LocateStep) (dock : DockState) : Dev :=
      { docked with
        sc := { docked.sc with dock := dock }
        cm := { docked.cm with discovery := .locating, locate := { docked.cm.locate with step := st, seg := .p2 } } }
    ((d .powering .holding).segmentResult .p1 .locateDiag .done).cm.locate = (d .powering .holding).cm.locate ∧
      (((d .powering .holding).segmentResult .p1 .locateDiag .done).entry .p1).seg = .diag ∧
      ((d .powering .docked).segmentResult .p1 .locateDiag .done).cm.locate.step = .observing ∧
      ((d .settling .holding).segmentResult .p1 .locateOff .done).cm.locate.offDone = false ∧
      (d .settling .holding).segmentResult .p1 .locateOff .noReply = d .settling .holding := by decide +kernel

theorem test_StallCommands_met :
    let off (d : Dev) : Dev := { d with pcie := { d.pcie with busMaster := false } }
    let s := engine .journal (part .starting .undocked)
    let c : Dev := waiting .cm (.publish (.slot 15) .close) docked
    let e : Dev := waiting .cm (.publish (.entry .p6) .close) docked
    let p : Dev := waiting .dtu (.pixels 0 0 []) { docked with
      dtu := { docked.dtu with posting := some ((updateRecord (record 5 4)).posting .p2) } }
    let l : Dev := { part .starting .undocked with xp := { (part .starting .undocked).xp with layoutOffered := true } }
    let d : Dev := { docked with xp := { docked.xp with windowStall := true, retryTimer := 100 } }
    let n : Dev := { docked with xp := { docked.xp with windowStall := true, retryDue := true } }
    ((engine .journal docked).xp.engine = some .journal ∧ Access.journal.isPixels = false ∧ docked.working = true ∧
        docked.xp.windowStall = false) ∧
      ((off c).nextGrant = some (.cm, .publish (.slot 15) .close) ∧ (off c).pcie.busMaster = false ∧ 15 < (off c).pub.slots.length ∧
        (off e).nextGrant = some (.cm, .publish (.entry .p6) .close)) ∧
      ((off p).nextGrant = some (.dtu, .pixels 0 0 []) ∧ (off p).dtu.posting.isSome = true ∧ 0 = (off p).dtu.readyNo) ∧
      (s.xp.engine = some .journal ∧ s.xp.part = .starting ∧ (off l).nextGrant = some (.xp, .layout false)) ∧
      (d.working = true ∧ d.xp.windowStall = true ∧ 100 ≤ d.xp.retryTimer) ∧ n.xp.retryDue = true ∧
      (engine (.layout true) d).xp.engine = some (.layout true) ∧ (none : Option W16) ≠ some 1 := by decide +kernel

/-- The write of the stall area owed, with a word on offer; and a retry that only a nudge made due. -/
theorem test_StallCommands_met_stall_area :
    let d : Dev := waiting .xp (.header .session) { docked with
      xp := { docked.xp with stallAreaOwed := true }, pcie := { docked.pcie with busMaster := false } }
    let n : Dev := { docked with xp := { docked.xp with windowStall := true, retryDue := true, retryTimer := 60 } }
    d.nextGrant = some (.xp, .header .stallArea) ∧ d.xp.offered.xp = some (.header .session) ∧ d.working = true ∧
      d.xp.windowStall = false ∧ n.xp.retryTimer < 100 ∧ n.xp.retryDue = true := by decide +kernel

/-- A journal entry leaves the offers at a stall, and a header word wanted later waits behind it until the count is read; a fault
total on offer keeps its place (R132, R177, R179). -/
theorem test_stall_keeps_the_order_of_offers :
    let i : Item := { kind := .dock, position := 0, direction := 0xFF, seq := 0xFF, detail := 0xFFFF, stamp := 500 }
    let d : Dev := waiting .ic .journal (waiting .cm (.faultTotal 1) { docked with
      ic := { docked.ic with staging := [i], taken := some 0 } })
    let stalled := (engine .takenCount { d with xp := { d.xp with lastServed := .ir } }).windowFailure
    let later : Dev := { stalled with pub := { stalled.pub with dropped := true } }
    stalled.xp.windowStall = true ∧ stalled.xp.offered.cm = some (.faultTotal 1) ∧ stalled.xp.offered.ic = none ∧
      later.offerAll.xp.offered.ic = none ∧
      (later.onIc fun c => { c with takenFirst := false }).offerAll.xp.offered.ic = some .journal := by decide +kernel

/-- A log whose oldest record is number 2, slot 0 overwritten with record 17 while its write was under way. -/
def overwritten : Dev :=
  let r (n : W32) : FaultRecord :=
    { number := n, code := .nodeLost, placeKind := .position, place := 2, localized := false, detail := .none, session := 1, stamp := 0 }
  let d : Dev := (docked.onSec (.slot 0) fun s => { s with dirty := true, step := .fields }).onSec (.slot 1) Sec.want
  { d with cm := { d.cm with log := { records := [r 2, r 17], total := 17, written := 1 } } }

/-- After a stall the slots go out in record number order, the total behind them (R81). -/
theorem test_StallCommands_met_slot_order :
    let d (e : Dev) : Dev := engine (.layout true) { e with xp := { e.xp with windowStall := true } }
    let none_ : Dev := { overwritten with pub := docked.pub }
    (slotOf 2 = 1 ∧ slotOf 17 = 0 ∧ ((d overwritten).pub.sec (.slot 1)).nextStep = some .openGen ∧
        (d overwritten).working = true ∧ (d overwritten).xp.offered.cm = none ∧
        (Pos.all.all fun k => ((d overwritten).pub.sec (.entry k)).nextStep.isNone) = true ∧
        ((d overwritten).pub.sec .chain).nextStep = none) ∧
      ((d overwritten).stallRetryComplete (some 1)).offerAll.xp.offered.cm = some (.publish (.slot 1) .openGen) ∧
      ((d none_).pub.sec (.slot 0)).nextStep = none ∧ ((d none_).pub.sec (.slot 1)).nextStep = none ∧
      ((d none_).stallRetryComplete (some 1)).offerAll.xp.offered.cm = some (.faultTotal 17) := by decide +kernel

/-- A slot on offer at a stall keeps the Chain Manager's place: an entry section that waits does not overtake it, and at the
stall's end the slot of the lowest record number has the place (R81, R177). -/
theorem test_StallCommands_met_slot_on_offer :
    let d := waiting .cm (.publish (.slot 0) .fields) (overwritten.onSec (.entry .p1) Sec.want)
    let stalled := (engine .journal { d with xp := { d.xp with lastServed := .ic } }).windowFailure.offerAll
    let cleared := ((engine (.layout true) stalled).stallRetryComplete (some 1)).offerAll
    let section_ : Dev := waiting .cm (.publish (.entry .p1) .openGen) overwritten
    (stalled.xp.windowStall = true ∧ stalled.xp.offered.cm = some (.publish (.slot 0) .fields) ∧
        (Access.publish (.slot 0) .fields).isLog = true) ∧
      cleared.xp.offered.cm = some (.publish (.slot 1) .openGen) ∧ (Access.publish (.entry .p1) .openGen).isLog = false ∧
      ((engine (.layout true) section_).stallRetryComplete (some 1)).offerAll.xp.offered.cm =
        some (.publish (.entry .p1) .openGen) := by decide +kernel

/-- The payload of a READ is the longest a reply carries. -/
theorem test_AnswerReadBack_met :
    ∀ t c p, (some (5#4, ReplyCode.done, List.replicate 16 0xFF#8) : Option (BitVec 4 × Bus.Reply)) = some (t, c, p) → p.length ≤ 16 := by
  intro t c p h
  cases h
  decide

end Sys2Proof.Tests
end

section
/-! SUPPORT. Locate's settling end and the end of its observation (R77, R78): O40. -/
namespace Sys2Proof.Proofs.LineFaultDiagnosis

open Sys2Proof.Machine Sys2Proof.Safety

/-! ### Queues (R40) -/

/-- A message that the queue takes joins its tail, and nothing else happens. -/
theorem send_of_takes {d : Dev} {k : Pos} {sub : Block} {p : Payload} (h : Takes d k (Msg.new sub p)) :
    d.send k sub p = { d with le := queued k sub p d.le } := by
  obtain ⟨notGone, notFull⟩ := h
  simp only [Dev.send, Dev.submit, notGone, notFull, Bool.false_eq_true, if_false]
  rfl

/-- Whatever becomes of a message, the Chain Manager's own state stays. -/
@[simp] theorem send_cm (d : Dev) (k : Pos) (sub : Block) (p : Payload) : (d.send k sub p).cm = d.cm := by
  unfold Dev.send Dev.submit
  by_cases gone : d.goneAtOnce k (Msg.new sub p) = true
  · simp [gone]
  · by_cases full : queueFull (d.queue k) (Msg.new sub p) = true
    · simp [gone, full, Dev.keepOffer]
    · simp [gone, full]

/-! ### The fault code read, and the segment it is about (R52, R66, R69) -/

theorem isFault_of_concealed {c : SenseCode} (h : c.sort = .concealed) : c.isFault = true := by
  revert h; cases c <;> decide

theorem faultRead_of_isFault {d : Dev} {c : SenseCode} (hr : d.cm.codeRead = some c) (hf : c.isFault = true) :
    d.faultRead = some c := by
  simp [Dev.faultRead, hr, hf]

theorem faultRead_of_clean {d : Dev} (hr : d.cm.codeRead = some .clean) : d.faultRead = none := by
  unfold Dev.faultRead; rw [hr]; rfl

/-- Switching a faulty segment off touches the node table, and of the diagnosis nothing. -/
theorem faultSegment_diagnosis (k : Pos) (d : Dev) :
    (d.faultSegment k).cm.locate = d.cm.locate ∧ (d.faultSegment k).cm.segs = d.cm.segs := by
  unfold Dev.faultSegment Dev.sendSegment Dev.setSegState
  cases k.prev? with
  | none => exact ⟨rfl, rfl⟩
  | some j => simp

/-! ### What follows a step leaves the diagnosis (R67, R76) -/

theorem settled_locate {own d : Dev} (h : Settled own d) : d.cm.locate = own.cm.locate := by rw [h.cm]

theorem settled_segs {own d : Dev} (h : Settled own d) : d.cm.segs = own.cm.segs := by rw [h.cm]

/-! ### Settling (R77) -/

theorem mayStep_iff (d : Dev) : d.mayStep = true ↔
    d.sc.dock = .docked ∧ d.sc.undock = none ∧ d.anyLost = false ∧ d.anyReleasing = false := by
  simp [Dev.mayStep, and_assoc]

/-- Step 3 of locate where the node ahead has a switched port: SEGMENT DIAG goes to it, and locate is POWERING (R78). -/
theorem examine_of_switched {d : Dev} {k j : Pos} (hj : k.prev? = some j) (hseg : (d.entry j).seg ≠ .none)
    (ht : Takes d j (Msg.new .cm (.segment .diag .locateDiag))) :
    d.examine k = { d with
      le := queued j .cm (.segment .diag .locateDiag) d.le
      cm := { d.cm with codeRead := none, locate := { d.cm.locate with step := .powering, seg := k, timer := 0 } } } := by
  simp only [Dev.examine, hj, hseg, if_false, Dev.sendSegment, send_of_takes ht]

theorem exec_settlingEnd (s : State) :
    exec .settlingEnd s = .next { s with dev := Dev.settle s.dev s.dev.settlingEnd } := rfl

/-- Locate leaves SETTLING for segment 2, once its OFF has returned and 100 superframes have passed (R77). -/
theorem settlingEnd_of_due {d : Dev} (hl : d.cm.discovery = .locating) (hs : d.cm.locate.step = .settling)
    (hoff : d.cm.locate.offDone = true) (ht : 100 ≤ d.cm.locate.timer) (hm : d.mayStep = true)
    (hu : (d.entry .p1).inUse = true) : d.settlingEnd = d.examine .p2 :=
  if_pos ⟨hl, hs, hoff, ht, hm, hu⟩

/-! ### Locate's observation (R78) -/

theorem exec_locateObservationEnd (s : State) :
    exec .locateObservationEnd s = .next { s with dev := Dev.settle s.dev s.dev.locateObservationEnd } := rfl

/-- Locate observes its segment, the dock is DOCKED and no undock is pending: its observation may end (R78, R79). -/
structure LocateObserves (d : Dev) : Prop where
  locating : d.cm.discovery = .locating
  observing : d.cm.locate.step = .observing
  docked : d.sc.dock = .docked
  undock : d.sc.undock = none

/-- A fault code ends locate's observation at any time. -/
theorem locateObservationEnd_of_fault {d : Dev} (h : LocateObserves d) {c : SenseCode} (hf : d.faultRead = some c) :
    d.locateObservationEnd = d.locateFault d.cm.locate.seg c := by
  simp [Dev.locateObservationEnd, h.locating, h.observing, h.docked, h.undock, hf]

/-- Locate as it goes from OBSERVING to PROBING. -/
def locateProbing (d : Dev) : Dev :=
  { d with cm := { d.cm with codeRead := none, locate := { d.cm.locate with step := .probing, timer := 0 } } }

/-- CLEAN after 100 superframes: locate is PROBING, with the PROBE of its segment's position queued where none is out. -/
theorem locateObservationEnd_of_clean {d : Dev} (h : LocateObserves d) (hr : d.cm.codeRead = some .clean)
    (ht : 100 ≤ d.cm.locate.timer) (hlost : d.anyLost = false) :
    d.locateObservationEnd =
      if (locateProbing d).probeOut d.cm.locate.seg .cm then locateProbing d
      else (locateProbing d).send d.cm.locate.seg .cm .probe := by
  simp [Dev.locateObservationEnd, h.locating, h.observing, h.docked, h.undock, faultRead_of_clean hr,
    Nat.not_lt.mpr ht, hlost, hr, locateProbing]

/-- The queues and the node table are those of before, so the same PROBE is out and the queue takes the same messages. -/
theorem locateProbing_probeOut (d : Dev) (k : Pos) (b : Block) : (locateProbing d).probeOut k b = d.probeOut k b := rfl

theorem locateProbing_takes {d : Dev} {k : Pos} {m : Msg} (h : Takes d k m) : Takes (locateProbing d) k m := h

/-- A concealed code ends locate LOCALIZED, and stands, localized, for the segment (R78). -/
theorem locateFault_of_concealed (d : Dev) (k : Pos) {c : SenseCode} (hc : c.sort = .concealed) :
    (d.locateFault k c).cm.locate = { d.cm.locate with step := .idle, result := .localized } ∧
      ((d.locateFault k c).cm.segs.get k).standing = some { code := c.fault, sense := some c, localized := true } := by
  simp [Dev.locateFault, hc, Dev.enterFaulted, Dev.endLocate, faultSegment_diagnosis, Dev.setStanding, Dev.logFault,
    Per6.get_modify]

/-! ### The obligation -/

/-- Settles O40: each clause is one equation of the two commands above, behind which settle leaves what it states. -/
theorem locateCommands : Obligations.LocateCommands := by
  unfold Obligations.LocateCommands
  refine ⟨?settling, ?observing⟩
  case settling =>
    intro s hl hs hoff ht hdock hundock hlost hrel huse hseg htakes
    refine ⟨_, exec_settlingEnd s, ?_⟩
    have may : s.dev.mayStep = true := (mayStep_iff _).mpr ⟨hdock, hundock, hlost, hrel⟩
    rw [settlingEnd_of_due hl hs hoff ht may huse, examine_of_switched rfl hseg htakes]
    exact settle_settled _ _
  case observing =>
    rintro s k hl hs rfl hdock hundock hlost
    have obs : LocateObserves s.dev := ⟨hl, hs, hdock, hundock⟩
    refine ⟨fun hr ht hp htakes => ?clean, fun c hr hc => ?concealed⟩
    case clean =>
      refine ⟨_, exec_locateObservationEnd s, ?_⟩
      rw [locateObservationEnd_of_clean obs hr ht hlost, locateProbing_probeOut, hp, if_neg Bool.false_ne_true,
        send_of_takes (locateProbing_takes htakes)]
      exact settle_settled _ _
    case concealed =>
      have read := faultRead_of_isFault hr (isFault_of_concealed hc)
      obtain ⟨located, stands⟩ := locateFault_of_concealed s.dev s.dev.cm.locate.seg hc
      refine ⟨_, exec_locateObservationEnd s, ?_⟩
      rw [locateObservationEnd_of_fault obs read]
      have settled := settle_settled s.dev (s.dev.locateFault s.dev.cm.locate.seg c)
      rw [settled_locate settled, settled_segs settled, located]
      exact ⟨rfl, rfl, stands⟩

end Sys2Proof.Proofs.LineFaultDiagnosis
end

section
/-! SUPPORT. The journal's accesses, the scan, the final drain, and what an ANSWER hands out (R124 to R135): O14, O46, O55,
and the refutation of O22. -/
namespace Sys2Proof.Proofs.InputJournal

open Sys2Proof.Machine Sys2Proof.Safety

/-! ### Bytes and counters that the completing writes share (R176, R180) -/

/-- A run written at an offset of the window stands there, and every other byte of memory is as it was. -/
theorem wrote_write (d : Dev) (o : Nat) (bs : List Byte) :
    Wrote d { d with mem := Mem.write d.mem (d.windowAddr o) bs } o bs :=
  ⟨fun _ h => Laws.read_write_inside d.mem h, fun _ h => Laws.read_write_outside d.mem h⟩

theorem bump_eq (c : Cause) (d : Dev) :
    d.bump c = { d with xp := bumped c d.xp, pub := { d.pub with counters := d.pub.counters.set c true } } := by
  rw [Dev.bump, Dev.bumpBy, if_neg (show (1 : W32) ≠ 0 by decide)]
  rfl

/-! ### The taken count (R131) -/

/-- JOURNAL_COUNT takes a value; where it changes, its word waits to be written. -/
theorem setInvalid_eq (b : Bool) (d : Dev) :
    d.setInvalid b = { d with
      ic := { d.ic with invalid := b }
      pub := { d.pub with journalCount := d.pub.journalCount || d.ic.invalid != b } } := by
  unfold Dev.setInvalid
  split
  · next same => subst same; simp
  · next moved => simp [Dev.onIc, Dev.onPub, moved]

/-- The taken count as it has been read, before it is judged. -/
def countRead (d : Dev) : Dev := (d.setEngine none).onIc fun i => { i with takenFirst := false }

theorem takenRead_of_valid {d : Dev} {t : W32} (he : d.xp.engine = some .takenCount) (ht : (d.ic.writeCount - t).toNat ≤ 512) :
    d.takenRead t = ((countRead d).setInvalid false).onIc fun i => { i with taken := some t } := by
  rw [Dev.takenRead, if_pos he]
  exact if_pos ht

theorem takenRead_of_invalid {d : Dev} {t : W32} (he : d.xp.engine = some .takenCount) (ht : 512 < (d.ic.writeCount - t).toNat) :
    d.takenRead t = (countRead d).setInvalid true := by
  rw [Dev.takenRead, if_pos he]
  exact if_neg (Nat.not_le.mpr ht)

/-! ### The journal's writes (R130) -/

theorem journalWritten_of_staged {d : Dev} {i : Item} {rest : List Item} (he : d.xp.engine = some .journal)
    (hs : d.ic.staging = i :: rest) :
    d.journalWritten = { d with
      mem := Mem.write d.mem (d.windowAddr (journalOffset d.ic.writeCount)) i.bytes
      xp := { d.xp with engine := none }
      ic := { d.ic with staging := rest, writeCount := d.ic.writeCount + 1 } } := by
  simp only [Dev.journalWritten, he, if_true, Dev.setEngine_ic, hs]
  rfl

/-- The part behind the write of a write count: the count stands in the part header and is the one last written. -/
def countStands (v : W32) (d : Dev) : Dev :=
  { d with
    mem := Mem.write d.mem (d.windowAddr 0x110) (le32 v)
    xp := { d.xp with engine := none }
    ic := { d.ic with written := v } }

theorem countWritten_of_engine {d : Dev} {v : W32} (he : d.xp.engine = some (.writeCount v)) :
    d.countWritten = if v = d.ic.written then countStands v d else (countStands v d).bump .input := by
  simp only [Dev.countWritten, he]
  rfl

/-! ### When a journal entry is offered (R131, R132, R177) -/

theorem hasRoom_iff (i : Ic) : i.hasRoom = true ↔
    i.staging ≠ [] ∧ i.invalid = false ∧ ∃ t, i.taken = some t ∧ (i.writeCount - t).toNat < 512 := by
  unfold Ic.hasRoom
  cases i.taken <;> simp [and_assoc]

theorem mayWrite_iff (i : Ic) : i.mayWrite = true ↔ i.hasRoom = true ∧ i.takenFirst = false := by
  simp [Ic.mayWrite]

/-- Neither of the Input Collector's two header words is an entry of the journal. -/
theorem words_ne_journal (b c : Bool) :
    firstAccess [Dev.headerAccess b .dropped, Dev.headerAccess c .journalCount] ≠ some .journal := by
  cases b <;> cases c <;> decide

/-- The read of the taken count and the write of the write count come ahead of an entry, the header words behind it (log 9). -/
theorem icWork_journal_iff (d : Dev) : d.icWork = some .journal ↔
    d.ic.takenDue = false ∧ d.ic.written = d.ic.writeCount ∧ d.ic.mayWrite = true := by
  unfold Dev.icWork firstAccess
  by_cases due : d.ic.takenDue = true
  · simp [due]
  by_cases behind : d.ic.written = d.ic.writeCount
  · by_cases may : d.ic.mayWrite = true
    · simp [due, behind, may]
    · simp only [due, behind, may, Bool.false_eq_true, if_false, ne_eq, not_true_eq_false, and_false, iff_false]
      exact words_ne_journal _ _
  · simp [due, behind]

/-- What a requester has to do does not depend on what is offered. -/
theorem work_of_onlyOffers {a d : Dev} (h : OnlyOffers a d) (r : Requester) : d.work r = a.work r := by
  rw [h]
  cases r <;> rfl

/-- What a requester offers in the part `d` it offered in the part `a` already, or it offered nothing there and offers what it
then had to do. -/
def OfferedFrom (r : Requester) (a d : Dev) : Prop :=
  d.xp.offered.get r = a.xp.offered.get r ∨ (a.xp.offered.get r = none ∧ d.xp.offered.get r = a.work r)

theorem offerOne_offeredFrom {a d : Dev} (r q : Requester) (only : OnlyOffers a d) (h : OfferedFrom r a d) :
    OfferedFrom r a (d.offerOne q) := by
  unfold Dev.offerOne
  split
  · next free =>
    by_cases same : r = q
    · subst same
      obtain ⟨unoffered, -⟩ := Bool.and_eq_true_iff.mp free
      have new : (d.setOffer r (d.work r)).xp.offered.get r = a.work r := by simp [work_of_onlyOffers only]
      rcases h with kept | ⟨before, -⟩
      · exact .inr ⟨kept ▸ Option.isNone_iff_eq_none.mp unoffered, new⟩
      · exact .inr ⟨before, new⟩
    · unfold OfferedFrom
      rw [Dev.setOffer_xp, PerRequester.get_set_other _ _ same]
      exact h
  · exact h

theorem offerAll_offeredFrom (r : Requester) (a : Dev) : OfferedFrom r a a.offerAll := by
  have fold : ∀ (l : List Requester) (d : Dev), OnlyOffers a d → OfferedFrom r a d →
      OfferedFrom r a (l.foldl (fun d q => d.offerOne q) d) := by
    intro l
    induction l with
    | nil => exact fun _ _ h => h
    | cons q l ih => exact fun d only h => ih _ (only.trans (offerOne_only q d)) (offerOne_offeredFrom r q only h)
  unfold Dev.offerAll
  split
  · exact fold _ a (OnlyOffers.refl a) (.inl rfl)
  · exact .inl rfl

/-! ### The obligation on the journal -/

/-- Settles O55: each completing access is one equation, and an offer is traced through the requesters in turn. -/
theorem journalCommands : Obligations.JournalCommands := by
  unfold Obligations.JournalCommands
  refine fun s => ⟨?read, ?entry, ?count, ?offered, ?traced⟩
  case read =>
    intro t he
    refine ⟨_, State.runOffered_eq (Dev.takenRead t) s, ?_⟩
    rcases Nat.lt_or_ge 512 (s.dev.ic.writeCount - t).toNat with far | near
    · rw [takenRead_of_invalid he far, setInvalid_eq, Dev.offerAll_xp, Dev.offerAll_mem, Dev.offerAll_le, Dev.offerAll_cm,
        Dev.offerAll_ic]
      exact ⟨rfl, rfl, rfl, rfl, fun near => absurd far (Nat.not_lt.mpr near), fun _ => rfl⟩
    · rw [takenRead_of_valid he near, setInvalid_eq, Dev.offerAll_xp, Dev.offerAll_mem, Dev.offerAll_le, Dev.offerAll_cm,
        Dev.offerAll_ic]
      exact ⟨rfl, rfl, rfl, rfl, fun _ => rfl, fun far => absurd far (Nat.not_lt.mpr near)⟩
  case entry =>
    intro i rest he hs
    refine ⟨_, ?_, wrote_write s.dev (journalOffset s.dev.ic.writeCount) i.bytes⟩
    rw [← journalWritten_of_staged he hs]
    rfl
  case count =>
    intro v he
    refine ⟨_, wrote_write s.dev 0x110 (le32 v), fun same => ?_, fun moved => ?_⟩
    · exact (State.runOffered_eq Dev.countWritten s).trans (by rw [countWritten_of_engine he, if_pos same]; rfl)
    · exact (State.runOffered_eq Dev.countWritten s).trans (by rw [countWritten_of_engine he, if_neg moved, bump_eq]; rfl)
  case offered =>
    show s.dev.icWork = some .journal ↔ _
    rw [icWork_journal_iff, mayWrite_iff, hasRoom_iff]
    exact ⟨fun ⟨due, written, ⟨staged, valid, room⟩, read⟩ => ⟨due, written, staged, valid, read, room⟩,
      fun ⟨due, written, staged, valid, read, room⟩ => ⟨due, written, ⟨staged, valid, room⟩, read⟩⟩
  case traced =>
    intro offered
    rcases offerAll_offeredFrom .ic s.dev with kept | ⟨free, new⟩
    · exact .inl (kept.symm.trans offered)
    · exact .inr ⟨free, new.symm.trans offered⟩

/-! ### The scan (R106, R178) -/

theorem scanIntent_of_pass {d : Dev} (h : d.ir.pass.isSome = true) :
    d.scanIntent = { d with ir := { d.ir with owed := true } } := by
  simp [Dev.scanIntent, Dev.onIr, h]

theorem scanIntent_of_none {d : Dev} (h : d.ir.pass = none) :
    d.scanIntent = { d with ir := { d.ir with pass := some (ScanPass.start .global) } } := by
  simp [Dev.scanIntent, Dev.onIr, h]

/-- From the part `a` to the part `d` writes of entry sections have been asked for, and nothing else has changed. -/
def OnlyEntriesWanted (a d : Dev) : Prop :=
  ∃ e : Per6 Sec, d = { a with pub := { a.pub with entry := e } } ∧
    ∀ k, (e.get k).gen = (a.pub.entry.get k).gen ∧ (e.get k).step = (a.pub.entry.get k).step

theorem OnlyEntriesWanted.refl (d : Dev) : OnlyEntriesWanted d d := ⟨d.pub.entry, rfl, fun _ => ⟨rfl, rfl⟩⟩

theorem OnlyEntriesWanted.want {a d : Dev} (h : OnlyEntriesWanted a d) (b : Bool) (j : Pos) :
    OnlyEntriesWanted a (d.when b fun d => d.onSec (.entry j) Sec.want) := by
  obtain ⟨e, rfl, kept⟩ := h
  cases b
  · exact ⟨e, rfl, kept⟩
  · refine ⟨e.modify j Sec.want, rfl, fun k => ?_⟩
    rw [Per6.get_modify]
    split
    · next same => subst same; exact kept k
    · exact kept k

theorem scanCounters_onlyEntriesWanted (d : Dev) : OnlyEntriesWanted d d.scanCounters := by
  have fold : ∀ (l : List Pos) (f : Dev), OnlyEntriesWanted d f →
      OnlyEntriesWanted d (l.foldl (fun d k => d.when (d.countersMoved k) fun d => d.onSec (.entry k) Sec.want) f) := by
    intro l
    induction l with
    | nil => exact fun _ h => h
    | cons k l ih => exact fun f h => ih _ (h.want _ k)
  exact fold _ d (OnlyEntriesWanted.refl d)

/-- What a scan tells the Intent Reconciler, the Input Collector and the Display Transfer Unit. -/
def scanTold (d : Dev) : Dev :=
  { d with
    xp := { d.xp with scanDue := false }
    ir := d.scanIntent.ir
    ic := d.ic.askTaken
    dtu := { d.dtu with readDue := true } }

theorem scan_of_due {d : Dev} (hw : d.working = true) (hdue : d.xp.scanDue = true) (hstall : d.xp.windowStall = false) :
    d.scan = (scanTold d).scanCounters := if_pos ⟨hw, hdue, hstall⟩

/-- Settles O46: the units are told, and the counters that moved ask for entry sections alone. -/
theorem scanResult : Obligations.ScanResult := by
  unfold Obligations.ScanResult
  intro s hw hdue hstall
  obtain ⟨e, counted, kept⟩ := scanCounters_onlyEntriesWanted (scanTold s.dev)
  refine ⟨e, s.dev.scanIntent.ir, ?_, fun pass => ?_, fun pass => ?_, kept⟩
  · refine (State.runOffered_eq Dev.scan s).trans ?_
    rw [scan_of_due hw hdue hstall, counted]
    rfl
  · rw [scanIntent_of_pass pass]
  · rw [scanIntent_of_none pass]
    rfl

/-! ### The final drain (R134, R174) -/

theorem sequenceEnded_of_report {d : Dev} (hp : d.xp.part = .stopping) (hr : d.sc.endReport = true) :
    d.sequenceEnded = { d with
      sc := { d.sc with endReport := false }
      ic := { d.ic with drain := some 0, takenDue := d.ic.takenDue || !d.ic.asked, asked := true } } := if_pos ⟨hp, hr⟩

/-- The drain ends at its 100th superframe, or as soon as everything staged has been written. -/
theorem finalDrainEnd_of_drained {d : Dev} {n : Nat} (hp : d.xp.part = .stopping) (hd : d.ic.drain = some n)
    (hn : 100 ≤ n ∨ (d.ic.staging = [] ∧ d.ic.written = d.ic.writeCount)) :
    d.finalDrainEnd = if d.xp.enable then d.enterDisabled.enterStarting else d.enterDisabled := by
  have ends : d.xp.part = .stopping ∧ (d.inputWritten = true ∨ 100 ≤ n) := by
    rcases hn with late | ⟨empty, written⟩
    · exact ⟨hp, .inr late⟩
    · exact ⟨hp, .inl (by simp [Dev.inputWritten, empty, written])⟩
  simp only [Dev.finalDrainEnd, hd, if_pos ends]
  rfl

/-- ENABLE written 1 in DISABLED, where it stands at 1 already: STARTING is entered (R174). -/
theorem enableOn_of_disabled {d : Dev} (hp : d.xp.part = .disabled) (he : d.xp.enable = true) :
    d.enableOn = d.enterStarting := by
  have same : (d.onXp fun x => { x with enable := true }) = d := by
    unfold Dev.onXp
    rw [← he]
  rw [Dev.enableOn, same]
  exact if_pos hp

theorem exec_finalDrainEnd (s : State) : exec .finalDrainEnd s = .next { s with dev := s.dev.finalDrainEnd } := rfl

theorem exec_enable (s : State) : exec .enable s = .next { s with dev := s.dev.enableOn } := rfl

/-- Settles O14: STOPPING ends in the part that enterDisabled leaves, and a kept ENABLE acts on that part. -/
theorem stoppingResults : Obligations.StoppingResults := by
  unfold Obligations.StoppingResults
  refine ⟨?ended, ?drained⟩
  case ended =>
    intro s hp hr
    refine (State.runOffered_eq Dev.sequenceEnded s).trans ?_
    rw [sequenceEnded_of_report hp hr]
  case drained =>
    intro s n u hp hd hn hu
    have left : u = { s with dev := s.dev.enterDisabled } := hu
    rw [left, exec_enable, exec_finalDrainEnd, finalDrainEnd_of_drained hp hd hn]
    refine ⟨fun off => ?_, fun on => ?_⟩
    · rw [off]
      rfl
    · rw [if_pos on, enableOn_of_disabled (d := s.dev.enterDisabled) rfl on]

/-! ### The hand-out of an ANSWER (R26, R42, R117) -/

/-- A good ANSWER of a scheduled position touches the Link Engine's counts, and no queue. -/
theorem goodHit_eq (k : Pos) (d : Dev) : ∃ l : Le, d.goodHit k = { d with le := l } ∧ l.queues = d.le.queues := by
  unfold Dev.goodHit
  split
  · exact ⟨_, rfl, rfl⟩
  · exact ⟨d.le, rfl, rfl⟩

theorem countInterruption_ir (k : Pos) (d : Dev) : (d.countInterruption k).ir = d.ir := by
  unfold Dev.countInterruption
  split <;> rfl

theorem takeEntry_ir (k : Pos) (e : InputEntry) (d : Dev) : (d.takeEntry k e).ir = d.ir := by
  unfold Dev.takeEntry
  dsimp only
  split <;> rfl

theorem takeEntries_ir (k : Pos) (es : List InputEntry) (d : Dev) : (es.foldl (fun d e => d.takeEntry k e) d).ir = d.ir := by
  induction es generalizing d with
  | nil => rfl
  | cons e es ih => exact (ih _).trans (takeEntry_ir k e d)

theorem takeLost_ir (k : Pos) (n : W16) (d : Dev) : (d.takeLost k n).ir = d.ir := by
  unfold Dev.takeLost Dev.stageMarker
  dsimp only
  split
  · rfl
  · split <;> rfl

/-- The input parts of an ANSWER leave the Intent Reconciler. -/
theorem takeInput_ir (k : Pos) (a : Answer) (d : Dev) : (d.takeInput k a).ir = d.ir := by
  have taken : ((a.entries.foldl (fun d e => d.takeEntry k e) d).takeLost k a.lost).ir = d.ir :=
    (takeLost_ir k a.lost _).trans (takeEntries_ir k a.entries d)
  unfold Dev.takeInput
  split <;> split
  case isTrue.isTrue | isTrue.isFalse => exact taken
  case isFalse.isTrue | isFalse.isFalse => rfl

/-- A SET of the settings in flight to a position, withdrawn since it was sent (R117). -/
structure SettingWithdrawn (d : Dev) (k : Pos) (m : Msg) (items : List SetItem) : Prop where
  inFlight : d.inFlight k false = some m
  submitter : m.sub = .ir
  payload : ∃ n, m.payload = .set items n
  withdrawn : m.withdrawn = true

theorem SettingWithdrawn.of_queues {d : Dev} {k : Pos} {m : Msg} {items : List SetItem} (h : SettingWithdrawn d k m items)
    {l : Le} (hl : l.queues = d.le.queues) : SettingWithdrawn { d with le := l } k m items := by
  refine { h with inFlight := ?_ }
  have flight := h.inFlight
  unfold Dev.inFlight Dev.queue at flight ⊢
  rwa [hl]

/-- Without a valid reply it leaves, and outside RELEASING its items become UNKNOWN (R112, R117). -/
theorem takeReply_of_settingWithdrawn {d : Dev} {k : Pos} {m : Msg} {items : List SetItem} {a : Answer}
    (h : SettingWithdrawn d k m items) (hr : a.replyTo m = none) (hdock : d.sc.dock ≠ .releasing) :
    (d.takeReply k false (some a)).ir = (d.onShadow k (Shadow.forget items)).ir := by
  obtain ⟨flight, sub, ⟨n, payload⟩, withdrawn⟩ := h
  simp only [Dev.takeReply, flight, Option.bind_some, hr, Option.map_none, withdrawn, if_true, Dev.withdrawnLeaves, sub, payload]
  have elsewhere := Dev.learnShadow_elsewhere k (Shadow.forget items) (d := d.setInFlight k false fun _ => none) hdock
  rw [elsewhere]
  rfl

/-- A HELD or LOST entry hands on the reply and the input parts alone, so nothing else touches the Intent Reconciler. -/
theorem handOut_ir_of_away {d : Dev} {k : Pos} (a : Answer) (haway : (d.entry k).isAway = true) :
    (d.handOut k a).ir = (d.takeReply k false (some a)).ir :=
  (congrArg Dev.ir (if_pos haway)).trans (takeInput_ir k a _)

/-- The part when the window of a position has come and is being read. -/
def windowRead (k : Pos) (d : Dev) : Dev := { d with le := { d.le with windows := d.le.windows.set k false } }

theorem answerWindow_of_good {d : Dev} {k : Pos} {a : Answer} {bs : List Byte} (hw : d.le.windows.get k = true)
    (hg : d.goodAnswer k (some bs) = some a) :
    d.answerWindow k (some bs) = (((windowRead k d).goodHit k).handOut k a).countInterruption k := by
  have good : (windowRead k d).goodAnswer k (some bs) = some a := hg
  rw [Dev.answerWindow, if_pos hw]
  unfold windowRead at good ⊢
  dsimp only at good ⊢
  rw [good]

/-- In the window of a HELD or LOST entry, outside RELEASING, a good ANSWER without a valid reply to a withdrawn SET changes the
confirmed shadow of the position. -/
theorem answerWindow_of_settingWithdrawn {d : Dev} {k : Pos} {m : Msg} {items : List SetItem} {a : Answer} {bs : List Byte}
    (hw : d.le.windows.get k = true) (hg : d.goodAnswer k (some bs) = some a) (haway : (d.entry k).isAway = true)
    (h : SettingWithdrawn d k m items) (hr : a.replyTo m = none) (hdock : d.sc.dock ≠ .releasing) :
    (d.answerWindow k (some bs)).ir = (d.onShadow k (Shadow.forget items)).ir := by
  obtain ⟨l, hit, queues⟩ := goodHit_eq k (windowRead k d)
  have still : SettingWithdrawn { windowRead k d with le := l } k m items := h.of_queues queues
  have away : (({ windowRead k d with le := l } : Dev).entry k).isAway = true := haway
  rw [answerWindow_of_good hw hg, countInterruption_ir, hit, handOut_ir_of_away a away,
    takeReply_of_settingWithdrawn still hr hdock]
  rfl

/-! ### A hold that began between a SET and its ANSWER -/

/-- The SET of HOLD_LIMIT that was in flight to position 3 when its entry went HELD, withdrawn by the hold (R117). -/
def withdrawnHoldLimit : Msg :=
  { Msg.new .ir (.set [plainItem .holdLimit 1750] 0) with tag := some 5, inFlight := true, withdrawn := true }

/-- HOLDING: the keyboard of position 3 is HELD, its window of this superframe still to come, 2000 the hold limit it confirmed
last. -/
def heldAtThree : State :=
  { dev := { Dev.reset with
      le := { Le.reset with
        windows := (Per6.const false).set .p3 true
        queues := (Per6.const []).set .p3 [withdrawnHoldLimit] }
      cm := { Cm.reset with
        table := Cm.reset.table.set .p3 { Entry.vacant with state := .held, kind := .keyboard, resume := some .active } }
      sc := { Sc.reset with dock := .holding, session := 1, announced := true }
      ir := { Ir.reset with
        pos := Ir.reset.pos.set .p3 { IrPos.init with shadow := { Shadow.unknown with hold := some 2000 } } } }
    pending := [] }

/-- The ANSWER of position 3 in session, in node-hold, with no reply, no entry, lost count 0 and no field. -/
def silentAnswer : Answer :=
  { pos := 3, inSession := true, held := true, bufferEmpty := false, tag := 0, code := 0, payload := [], entries := []
    lost := 0, cradle := none, sense := none, display := none }

/-- The bytes of that ANSWER. -/
def silentFrame : List Byte := withCrc [4, 3, 3, 0, 0, 0, 0, 0, 0]

theorem silentFrame_good : heldAtThree.dev.goodAnswer .p3 (some silentFrame) = some silentAnswer := by decide +kernel

theorem heldAtThree_settingWithdrawn :
    SettingWithdrawn heldAtThree.dev .p3 withdrawnHoldLimit [plainItem .holdLimit 1750] :=
  { inFlight := by decide +kernel, submitter := rfl, payload := ⟨0, rfl⟩, withdrawn := rfl }

theorem heldAtThree_away : (heldAtThree.dev.entry .p3).isAway = true := by decide

/-- Behind the ANSWER the confirmed hold limit is UNKNOWN. -/
theorem answer_heldAtThree_shadow :
    ((heldAtThree.dev.answerWindow .p3 (some silentFrame)).ir.pos.get .p3).shadow.hold = none := by
  rw [answerWindow_of_settingWithdrawn rfl silentFrame_good heldAtThree_away heldAtThree_settingWithdrawn rfl (by decide)]
  rfl

/-- The part an ANSWER leads to. -/
theorem dev_of_answered {k : Pos} {frame : Option (List Byte)} {s : State} {d : Dev}
    (h : exec (.answer (.answer k) frame) s = .next { s with dev := d }) :
    d = Dev.settle s.dev (s.dev.answerWindow k frame) := by
  have settles : exec (.answer (.answer k) frame) s =
      .next { s with dev := Dev.settle s.dev (s.dev.answerWindow k frame) } := rfl
  rw [settles] at h
  injection h with same
  exact (congrArg State.dev same).symm

/-- What follows a step leaves the confirmed shadows. -/
theorem settled_shadow {own d : Dev} (h : Settled own d) (k : Pos) : (d.ir.pos.get k).shadow = (own.ir.pos.get k).shadow := by
  rw [h.settings k]

/-- Refutes O22: its clause on replies lets link and Chain Manager alone change, for every message in flight; a withdrawn SET of the
settings without a valid reply changes the confirmed shadow too (R112, R117). -/
theorem not_answerHandOut : ¬ Obligations.AnswerHandOut := by
  unfold Obligations.AnswerHandOut
  rintro ⟨clauses, -⟩
  obtain ⟨-, -, replies, -⟩ := clauses heldAtThree .p3 silentFrame silentAnswer (by decide) silentFrame_good (by decide)
    (by decide) true (by decide)
  obtain ⟨d, l, c, answered, settled, -⟩ := replies withdrawnHoldLimit heldAtThree_settingWithdrawn.inFlight rfl
    (.inl heldAtThree_away)
  have kept : (d.ir.pos.get .p3).shadow.hold = some 2000 := by
    rw [settled_shadow settled]
    rfl
  have forgotten : (d.ir.pos.get .p3).shadow.hold = none := by
    rw [dev_of_answered answered, settled_shadow (settle_settled _ _), answer_heldAtThree_shadow]
  rw [kept] at forgotten
  cases forgotten

end Sys2Proof.Proofs.InputJournal
end

section
/-! SUPPORT. The cursor's reads, the taken posting from its first batch to its end, the results of COMMIT and DISCARD, the write of
the outcome (R139 to R151): O32, O52, O53, O54. -/
namespace Sys2Proof.Proofs.DisplayUpdates

open Sys2Proof.Machine Sys2Proof.Safety
open Sys2Proof.Proofs.LineFaultDiagnosis (send_of_takes)
open Sys2Proof.Proofs.InputJournal (wrote_write bump_eq)

/-- What a command of the Display Transfer Unit does to the part, followed by the offers (R177). -/
theorem runOffered_of_eq {f : Dev → Dev} {s : State} {d : Dev} (h : f s.dev = d) :
    s.runOffered f = .next { s with dev := d.offerAll } :=
  h ▸ State.runOffered_eq f s

/-! ### Results taken (R17, R40) -/

/-- The part with the results that are left when its oldest has been taken. -/
def resultTaken (rest : List CtrlResult) (d : Dev) : Dev := { d with le := { d.le with results := rest } }

/-- A result at the head of the results that is of the kind asked for is the one taken. -/
theorem withResult_of_head {P : CtrlResult → Bool} {d : Dev} {r : CtrlResult} {rest : List CtrlResult}
    (head : d.le.results = r :: rest) (kind : P r = true) (f : CtrlResult → ResultCode → Dev → Dev) :
    d.withResult P f = f r (d.resultCode r) (resultTaken rest d) := by
  simp only [Dev.withResult, head, takeFirst, kind, if_true]
  rfl

/-- Where no release of its position is pending, a result means what it says. -/
theorem resultCode_of_not_releasing {d : Dev} {r : CtrlResult} (h : (d.entry r.pos).releasing = false) :
    d.resultCode r = r.code := by
  simp [Dev.resultCode, h]

/-! ### The taken posting -/

section Taken

variable {d : Dev} {p : Posting}

theorem onPosting_of_taken (taken : d.dtu.posting = some p) (f : Posting → Posting) :
    d.onPosting f = { d with dtu := { d.dtu with posting := some (f p) } } := by
  rw [Dev.onPosting, taken, Option.map_some]

theorem emptyReady_of_taken (taken : d.dtu.posting = some p) :
    d.emptyReady = { d with dtu := { d.dtu with
      posting := some { p with ready := [] }, readyNo := d.dtu.readyNo + 1 } } := by
  rw [Dev.emptyReady, onPosting_of_taken taken]
  rfl

/-- The posting as its batch `b` begins, in GATE (R143). -/
def batchBegun (b : Nat) (p : Posting) (d : Dev) : Posting :=
  { p with
    state := .gate, batch := b, size := p.batchSize (d.staging p.target) b, tag := d.nextTag p.target, sendPoint := 0
    received := 0, ready := [], timer := 0, began := d.le.stamp, committed := false, revalidate := false
    checkReport := false, split := p.isSplit (d.staging p.target) }

theorem beginBatch_of_taken (taken : d.dtu.posting = some p) (b : Nat) :
    d.beginBatch b = { d with dtu := { d.dtu with
      tagCounter := d.nextTag p.target, readyNo := d.dtu.readyNo + 1, posting := some (batchBegun b p d) } } := by
  simp only [Dev.beginBatch, taken]
  rfl

/-- The outcome of a posting that fails after it has been taken (R142). -/
def failedOutcome (p : Posting) (reason : UpdateReason) (stamp : W32) : OutcomeWrite :=
  { outcome := .failed, reason := reason, split := p.split, tilesSent := p.tilesSent, commits := p.commits, stamp := stamp
    serial := p.post, hostTag := p.hostTag, fieldsWritten := false }

theorem endPosting_failed_of_taken (taken : d.dtu.posting = some p) (reason : UpdateReason) :
    d.endPosting .failed reason = { d with dtu := { d.dtu with
      posting := none, readyNo := d.dtu.readyNo + 1, outcome := some (failedOutcome p reason d.le.stamp) } } := by
  simp only [Dev.endPosting, taken, reduceCtorEq, false_and, if_false]
  rfl

/-- The end of the posting leaves queues and node table, so DISCARD joins the queue that took it before (R151). -/
theorem failPosting_of_taken (taken : d.dtu.posting = some p) (takes : Takes d p.target (Msg.new .dtu .discard))
    (reason : UpdateReason) :
    d.failPosting reason = { d with
      le := queued p.target .dtu .discard d.le
      dtu := { d.dtu with
        posting := none, readyNo := d.dtu.readyNo + 1, outcome := some (failedOutcome p reason d.le.stamp) } } := by
  simp only [Dev.failPosting, taken, endPosting_failed_of_taken taken]
  exact send_of_takes takes

/-! ### COMMIT and DISCARD (R145, R146, R151) -/

/-- DONE of the COMMIT of the batch: the node has set it aside. -/
theorem commitResult_done (taken : d.dtu.posting = some p) (uncommitted : p.committed = false) (state : p.state = .committing) :
    d.commitResult p.target p.tag .done = { d with dtu := { d.dtu with posting := some { p with committed := true } } } := by
  simp [Dev.commitResult, taken, uncommitted, state, onPosting_of_taken taken]

/-- NO_REPLY to the COMMIT of the batch: it is sent again with the same tag. -/
theorem commitResult_noReply (taken : d.dtu.posting = some p) (uncommitted : p.committed = false) (state : p.state = .committing) :
    d.commitResult p.target p.tag .noReply = d.send p.target .dtu (.commit p.tag) := by
  simp [Dev.commitResult, taken, uncommitted, state]

/-- The result of a COMMIT at the head of the results is answered to the posting. -/
theorem commitDone_of_head {r : CtrlResult} {rest : List CtrlResult} {tag : Byte} (head : d.le.results = r :: rest)
    (payload : r.payload = .commit tag) (staying : (d.entry r.pos).releasing = false) :
    d.withResult (fun r => r.payload.isCommit) Dev.commitDone = (resultTaken rest d).commitResult r.pos tag r.code := by
  rw [withResult_of_head head (by rw [payload]; rfl), resultCode_of_not_releasing staying, Dev.commitDone, payload]

/-! ### Progress (R144, R145, R147) -/

theorem goBack_of_due (taken : d.dtu.posting = some p) (state : p.state = .sending) (pos : 0 < p.timer)
    (fourth : p.timer % 4 = 0) (lags : p.received < p.sendPoint) :
    d.goBack = { d with dtu := { d.dtu with
      posting := some { p with sendPoint := p.received, ready := [] }, readyNo := d.dtu.readyNo + 1 } } := by
  simp only [Dev.goBack, taken]
  rw [if_pos ⟨state, pos, fourth, lags⟩, onPosting_of_taken taken, emptyReady_of_taken rfl]

theorem noProgress_of_due (taken : d.dtu.posting = some p) (state : p.state ≠ .waiting) (late : 64 ≤ p.timer) :
    d.noProgress = d.failPosting .noProgress := by
  simp only [Dev.noProgress, taken]
  exact if_pos ⟨state, late⟩

end Taken

section PixelRead

variable {d : Dev} {i n : Nat} {rows : List Nat}

/-- Nothing of a read for an emptied ready list is kept, whether it came or failed (R144). -/
theorem pixelRead_of_emptied (engine : d.xp.engine = some (.pixels i n rows)) (emptied : n ≠ d.dtu.readyNo)
    (tile : Option (BitVec 4096)) : d.pixelRead tile = d.setEngine none := by
  cases tile <;> (simp only [Dev.pixelRead, engine]; exact if_neg emptied)

theorem pixelRead_of_tile (engine : d.xp.engine = some (.pixels i n rows)) (present : n = d.dtu.readyNo) (px : BitVec 4096) :
    d.pixelRead (some px) =
      (d.setEngine none).onPosting fun p => { p with ready := p.ready ++ [{ index := i, pixels := px }] } := by
  simp only [Dev.pixelRead, engine]
  exact if_pos present

theorem pixelRead_of_failure (engine : d.xp.engine = some (.pixels i n rows)) (present : n = d.dtu.readyNo) :
    d.pixelRead none = (d.setEngine none).failPosting .sourceRead := by
  simp only [Dev.pixelRead, engine]
  exact if_pos present

end PixelRead

/-! ### The cursor (R139 to R141) -/

theorem moveCursor_of_record {i : Byte} (h : i.toNat < 64) (d : Dev) :
    d.moveCursor i = d.setCursor (some (i.setWidth 6)) .at := by
  simp only [Dev.moveCursor, listIndex, if_pos h]

theorem moveCursor_of_none {i : Byte} (h : 64 ≤ i.toNat) (d : Dev) : d.moveCursor i = d := by
  simp only [Dev.moveCursor, listIndex, if_neg (Nat.not_lt.mpr h)]

theorem cursorRead_first {d : Dev} (engine : d.xp.engine = some .firstIndex) (i : Byte) :
    d.cursorRead (.first i) = (d.setEngine none).moveCursor i := by
  simp only [Dev.cursorRead, engine]

theorem cursorRead_record {d : Dev} {c : BitVec 6} (engine : d.xp.engine = some (.record c)) (x : BitVec 384) :
    d.cursorRead (.record x) = (d.setEngine none).decideRecord c (updateRecord x) := by
  simp only [Dev.cursorRead, engine]

/-- An ACTIVE entry is not being brought in (R140, step 4). -/
theorem beingBrought_of_active {e : Entry} (h : e.state = .active) : e.beingBrought = false := by
  simp [Entry.beingBrought, Entry.isAway, Entry.isReturned, h]

/-- In DOCKED and RUNNING postings are taken (R140, step 3). -/
theorem takesNoRecord_of_docked {d : Dev} (dock : d.sc.dock = .docked) (part : d.xp.part = .running) :
    d.takesNoRecord = false := by
  simp [Dev.takesNoRecord, dock, part]

section Record

variable {d : Dev} {c : BitVec 6} {u : UpdateRecord} {k : Pos}

theorem decideRecord_of_untaken (same : u.post = d.serialOf c) : d.decideRecord c u = d := if_pos same

theorem decideRecord_of_withdrawn (moved : u.post ≠ d.serialOf c) (withdrawn : u.withdraw = u.post) :
    d.decideRecord c u = d.decide (idleOutcome .withdrawn .none d.le.stamp u) :=
  (if_neg moved).trans (if_pos withdrawn)

theorem decideRecord_of_active (moved : u.post ≠ d.serialOf c) (standing : u.withdraw ≠ u.post) (dock : d.sc.dock = .docked)
    (part : d.xp.part = .running) (target : Pos.ofNat? u.target.toNat = some k) (active : (d.entry k).state = .active) :
    d.decideRecord c u = d.takePosting u := by
  simp only [Dev.decideRecord, if_neg moved, if_neg standing, takesNoRecord_of_docked dock part, target, Option.any_some,
    beingBrought_of_active active, Bool.false_eq_true, if_false]

/-- The posting a record gives, its tiles counted against the staging of its target. -/
def recordPosting (k : Pos) (u : UpdateRecord) (d : Dev) : Posting :=
  { u.posting k with split := (u.posting k).isSplit (d.staging k) }

/-- The part as it takes the posting of a record for position `k`, before its first batch begins (R140, R141). -/
def recordTaken (k : Pos) (u : UpdateRecord) (d : Dev) : Dev :=
  (d.setCursor d.dtu.cursor .taken).onDtu fun t => { t with posting := some (recordPosting k u d) }

theorem recordTaken_posting (k : Pos) (u : UpdateRecord) (d : Dev) :
    (recordTaken k u d).dtu.posting = some (recordPosting k u d) := rfl

/-- A valid posting of an ACTIVE target begins its first batch at once (R141, R143). -/
theorem takePosting_of_active (target : Pos.ofNat? u.target.toNat = some k) (active : (d.entry k).state = .active)
    (valid : d.postingFault k u.x u.y u.w u.h u.stride = none) : d.takePosting u = (recordTaken k u d).beginBatch 0 := by
  have valid' : (d.setCursor d.dtu.cursor .taken).postingFault k u.x u.y u.w u.h u.stride = none := valid
  simp only [Dev.takePosting, target, valid']
  exact if_pos active

end Record

/-! ### The outcome (R142) -/

theorem outcomeWritten_of_engine {d : Dev} {c : BitVec 6} {o : OutcomeWrite} (engine : d.xp.engine = some (.outcomeSerial c))
    (decided : d.dtu.outcome = some o) :
    d.outcomeWritten = { d with
      mem := Mem.write d.mem (d.windowAddr (0x4000 + 0x40 * c.toNat + 0x3C)) (le16 o.serial ++ [0, 0])
      xp := bumped .updates { d.xp with engine := none }
      dtu := { d.dtu with
        outcome := none, readDue := true, serials := d.dtu.serials.set c.toNat o.serial, cursor := some c, phase := .after }
      pub := { d.pub with cursor := true, hostTag := true, counters := d.pub.counters.set .updates true } } := by
  simp only [Dev.outcomeWritten, engine, decided, bump_eq]
  rfl

/-! ### The obligations -/

/-- Settles O32: the result at the head is taken, and the posting is answered as the code says. -/
theorem commitAndDiscardResults : Obligations.CommitAndDiscardResults := by
  unfold Obligations.CommitAndDiscardResults
  refine ⟨?commit, ?discard⟩
  case commit =>
    intro s r rest p head payload staying taken target uncommitted state
    have result := commitDone_of_head head payload staying
    have taken' : (resultTaken rest s.dev).dtu.posting = some p := taken
    rw [← target] at result ⊢
    refine ⟨fun done => ?done, fun silent takes => ?silent⟩
    case done =>
      rw [done] at result
      exact runOffered_of_eq (result.trans (commitResult_done taken' uncommitted state))
    case silent =>
      have takes' : Takes (resultTaken rest s.dev) p.target (Msg.new .dtu (.commit p.tag)) := takes
      rw [silent] at result
      exact runOffered_of_eq (result.trans ((commitResult_noReply taken' uncommitted state).trans (send_of_takes takes')))
  case discard =>
    intro s r rest head payload
    refine (State.run_eq _ s).trans ?_
    rw [withResult_of_head head (by rw [payload]; rfl), resultTaken]

/-- Settles O52: the cursor moves with the index read, and the record read is left, withdrawn or taken. -/
theorem cursorReadResult : Obligations.CursorReadResult := by
  unfold Obligations.CursorReadResult
  refine fun s => ⟨fun i engine => ⟨fun index => ?moves, fun unlisted => ?stays⟩, fun c x u engine hu => ?record⟩
  case moves => exact runOffered_of_eq ((cursorRead_first engine i).trans (moveCursor_of_record index _))
  case stays => exact runOffered_of_eq ((cursorRead_first engine i).trans (moveCursor_of_none unlisted _))
  case record =>
    have read : s.dev.cursorRead (.record x) = (s.dev.setEngine none).decideRecord c u := hu ▸ cursorRead_record engine x
    refine ⟨fun same => ?untaken, fun moved withdrawn => ?withdrawn,
      fun k moved standing dock part target active valid => ?taken⟩
    case untaken => exact runOffered_of_eq (read.trans (decideRecord_of_untaken same))
    case withdrawn => exact runOffered_of_eq (read.trans (decideRecord_of_withdrawn moved withdrawn))
    case taken =>
      have begun : s.dev.cursorRead (.record x) = (recordTaken k u (s.dev.setEngine none)).beginBatch 0 :=
        read.trans ((decideRecord_of_active (d := s.dev.setEngine none) moved standing dock part target active).trans
          (takePosting_of_active target active valid))
      refine ⟨_, batchBegun 0 (recordPosting k u s.dev) (recordTaken k u (s.dev.setEngine none)),
        runOffered_of_eq (begun.trans (beginBatch_of_taken (recordTaken_posting _ _ _) 0)), ?_⟩
      rw [Dev.offerAll_dtu, Dev.offerAll_cm, Dev.offerAll_mem]
      exact ⟨rfl, rfl, rfl, rfl, rfl, rfl, rfl, rfl, rfl, rfl, rfl, rfl, rfl, rfl, rfl, rfl⟩

/-- Settles O53: each of the three commands is one equation on the taken posting. -/
theorem postingProgress : Obligations.PostingProgress := by
  unfold Obligations.PostingProgress
  intro s p taken failed hfailed
  have taken' : (s.dev.setEngine none).dtu.posting = some p := taken
  refine ⟨fun i n rows engine => ⟨fun tile emptied => ?discarded, fun px present => ?joined, fun present takes => ?failed⟩,
    fun state pos fourth lags => ?back, fun state late takes => ?late⟩
  case discarded => exact runOffered_of_eq (pixelRead_of_emptied engine emptied tile)
  case joined => exact runOffered_of_eq ((pixelRead_of_tile engine present px).trans (onPosting_of_taken taken' _))
  case failed =>
    rw [hfailed]
    exact runOffered_of_eq ((pixelRead_of_failure engine present).trans (failPosting_of_taken taken' takes _))
  case back => exact runOffered_of_eq (goBack_of_due taken state pos fourth lags)
  case late =>
    rw [hfailed]
    exact runOffered_of_eq ((noProgress_of_due taken state late).trans (failPosting_of_taken taken takes _))

/-- Settles O54: what is written is the outcome serial in its word, and no other byte. -/
theorem outcomeWriteResult : Obligations.OutcomeWriteResult := by
  unfold Obligations.OutcomeWriteResult
  intro s c o engine decided
  exact ⟨_, runOffered_of_eq (outcomeWritten_of_engine engine decided), wrote_write s.dev _ _⟩

end Sys2Proof.Proofs.DisplayUpdates
end

section
/-! SUPPORT. The grants of allocation, pass by pass, and what settle leaves of them (R162, R163): O51. -/
namespace Sys2Proof.Proofs.Allocation

open Sys2Proof.Machine Sys2Proof.Safety

/-! ### The level granted to one position (R163) -/

@[simp] theorem draw_zero (p : PowerCap) : p.draw 0 = some 0 := rfl

/-- One level's turn in the search for the highest one that fits. -/
def levelTurn (p : PowerCap) (room best l : Nat) : Nat :=
  match p.draw l with
  | some x => if x ≤ room then l else best
  | none => best

theorem grant_eq (p : PowerCap) (requested room : Nat) :
    p.grant requested room = (List.range (requested + 1)).foldl (levelTurn p room) 0 := rfl

/-- The search for the highest level that fits, as far as it has come: up to `n`. -/
theorem highestFit_upTo (p : PowerCap) (room n : Nat) :
    HighestFit p n ((List.range (n + 1)).foldl (levelTurn p room) 0) room := by
  induction n with
  | zero =>
    have first : (List.range (0 + 1)).foldl (levelTurn p room) 0 = 0 := by
      simp only [Nat.zero_add, List.range_one, List.foldl_cons, List.foldl_nil, levelTurn, draw_zero, Nat.zero_le, if_true]
    rw [first]
    exact ⟨Nat.le_refl 0, ⟨0, rfl, Nat.zero_le _⟩, fun l x above upTo => absurd above (by omega)⟩
  | succ n ih =>
    obtain ⟨below, fits, highest⟩ := ih
    rw [List.range_succ, List.foldl_append, List.foldl_cons, List.foldl_nil]
    generalize (List.range (n + 1)).foldl (levelTurn p room) 0 = level at below fits highest ⊢
    cases draw : p.draw (n + 1) with
    | none =>
      have turn : levelTurn p room level (n + 1) = level := by simp only [levelTurn, draw]
      rw [turn]
      refine ⟨Nat.le_succ_of_le below, fits, fun l x above upTo hx => ?_⟩
      rcases Nat.le_succ_iff.mp upTo with lower | rfl
      · exact highest l x above lower hx
      · rw [draw] at hx
        contradiction
    | some y =>
      by_cases fit : y ≤ room
      · have turn : levelTurn p room level (n + 1) = n + 1 := by simp only [levelTurn, draw, fit, if_true]
        rw [turn]
        exact ⟨Nat.le_refl _, ⟨y, draw, fit⟩, fun l x above upTo => absurd above (Nat.not_lt.mpr upTo)⟩
      · have turn : levelTurn p room level (n + 1) = level := by simp only [levelTurn, draw, fit, if_false]
        rw [turn]
        refine ⟨Nat.le_succ_of_le below, fits, fun l x above upTo hx => ?_⟩
        rcases Nat.le_succ_iff.mp upTo with lower | rfl
        · exact highest l x above lower hx
        · cases draw.symm.trans hx
          exact Nat.not_le.mp fit

/-- The level granted is the highest one that fits. -/
theorem grant_highestFit (p : PowerCap) (requested room : Nat) :
    HighestFit p requested (p.grant requested room) room := by
  rw [grant_eq]
  exact highestFit_upTo p room requested

/-! ### A pass of grants (R163) -/

section Pass

variable (takes : Pos → Option PowerCap) (requested : Pos → Byte)

/-- One position's turn in a pass of grants: what has been granted so far and the room that is left. -/
def grantTurn (acc : Per6 Byte × Nat) (k : Pos) : Per6 Byte × Nat :=
  match takes k with
  | none => acc
  | some p =>
    let l := p.grant (requested k).toNat acc.2
    (acc.1.set k (BitVec.ofNat 8 l), acc.2 - (p.draw l).getD 0)

theorem grantPass_eq (room : Nat) :
    grantPass takes requested room = Pos.all.foldl (grantTurn takes requested) (Per6.const 0, room) := rfl

/-- The extra draw of what a position has been granted in a pass that it takes part in. -/
def passDraw (g : Per6 Byte) (k : Pos) : Nat := ((takes k).map fun p => (p.draw (g.get k).toNat).getD 0).getD 0

variable {takes requested} {k : Pos} {acc : Per6 Byte × Nat}

theorem grantTurn_of_none (h : takes k = none) : grantTurn takes requested acc k = acc := by
  simp only [grantTurn, h]

/-- The level found is a byte's value, since it is no higher than the requested one. -/
theorem grantTurn_of_some {p : PowerCap} (h : takes k = some p) :
    HighestFit p (requested k).toNat ((grantTurn takes requested acc k).1.get k).toNat acc.2 ∧
      (grantTurn takes requested acc k).2 + passDraw takes (grantTurn takes requested acc k).1 k = acc.2 := by
  obtain ⟨upTo, ⟨x, draw, fits⟩, highest⟩ := grant_highestFit p (requested k).toNat acc.2
  have byte : (BitVec.ofNat 8 (p.grant (requested k).toNat acc.2)).toNat = p.grant (requested k).toNat acc.2 := by
    rw [BitVec.toNat_ofNat]
    exact Nat.mod_eq_of_lt (Nat.lt_of_le_of_lt upTo (requested k).isLt)
  simp only [grantTurn, passDraw, h, Per6.get_set_same, byte, draw, Option.map_some, Option.getD_some]
  exact ⟨⟨upTo, ⟨x, draw, fits⟩, highest⟩, Nat.sub_add_cancel fits⟩

theorem grantTurn_other {j : Pos} (h : j ≠ k) : (grantTurn takes requested acc k).1.get j = acc.1.get j := by
  unfold grantTurn
  split
  · rfl
  · exact Per6.get_set_other _ _ h

theorem grantTurn_room : (grantTurn takes requested acc k).2 + passDraw takes (grantTurn takes requested acc k).1 k = acc.2 := by
  cases h : takes k with
  | none => simp [grantTurn_of_none h, passDraw, h]
  | some p => exact (grantTurn_of_some h).2

theorem grantTurns_other (l : List Pos) {j : Pos} (h : j ∉ l) :
    (l.foldl (grantTurn takes requested) acc).1.get j = acc.1.get j := by
  induction l generalizing acc with
  | nil => rfl
  | cons k l ih =>
    have notHere : j ≠ k := fun same => h (same ▸ List.mem_cons_self)
    have notLater : j ∉ l := fun mem => h (List.mem_cons_of_mem k mem)
    exact (ih notLater).trans (grantTurn_other notHere)

theorem passDraw_congr {g h : Per6 Byte} (same : g.get k = h.get k) : passDraw takes g k = passDraw takes h k := by
  rw [passDraw, passDraw, same]

/-- What the turns of some positions leave is the room of before less the extra draws granted. -/
theorem grantTurns_room (l : List Pos) (nodup : l.Nodup) :
    (l.foldl (grantTurn takes requested) acc).2 +
      (l.map (passDraw takes (l.foldl (grantTurn takes requested) acc).1)).sum = acc.2 := by
  induction l generalizing acc with
  | nil => rfl
  | cons k l ih =>
    obtain ⟨once, nodup⟩ := List.nodup_cons.mp nodup
    have rest := ih nodup (acc := grantTurn takes requested acc k)
    have here : passDraw takes (l.foldl (grantTurn takes requested) (grantTurn takes requested acc k)).1 k =
        passDraw takes (grantTurn takes requested acc k).1 k := passDraw_congr (grantTurns_other l once)
    have turn := grantTurn_room (takes := takes) (requested := requested) (acc := acc) (k := k)
    simp only [List.foldl_cons, List.map_cons, List.sum_cons]
    omega

/-- A position that takes part has its highest fitting level in the room that the turns before its own have left. -/
theorem grantTurns_highestFit {before after : List Pos} (nodup : (before ++ k :: after).Nodup) {p : PowerCap}
    (h : takes k = some p) :
    let g := ((before ++ k :: after).foldl (grantTurn takes requested) acc).1
    HighestFit p (requested k).toNat (g.get k).toNat (acc.2 - (before.map (passDraw takes g)).sum) := by
  dsimp only
  obtain ⟨nodupBefore, nodupFrom, apart⟩ := List.nodup_append.mp nodup
  have later : ∀ j ∈ before, ((before ++ k :: after).foldl (grantTurn takes requested) acc).1.get j =
      (before.foldl (grantTurn takes requested) acc).1.get j := fun j mem => by
    rw [List.foldl_append]
    exact grantTurns_other _ fun again => apart j mem j again rfl
  have own : ((before ++ k :: after).foldl (grantTurn takes requested) acc).1.get k =
      (grantTurn takes requested (before.foldl (grantTurn takes requested) acc) k).1.get k := by
    rw [List.foldl_append, List.foldl_cons]
    exact grantTurns_other _ (List.nodup_cons.mp nodupFrom).1
  have drawn : before.map (passDraw takes ((before ++ k :: after).foldl (grantTurn takes requested) acc).1) =
      before.map (passDraw takes (before.foldl (grantTurn takes requested) acc).1) :=
    List.map_congr_left fun j mem => passDraw_congr (later j mem)
  have room := grantTurns_room (takes := takes) (requested := requested) (acc := acc) before nodupBefore
  rw [own, drawn, ← room, Nat.add_sub_cancel]
  exact (grantTurn_of_some h).1

end Pass

/-- The positions before one and behind it, in chain order. -/
theorem all_eq_around (k : Pos) :
    Pos.all = Pos.all.filter (fun j => decide (j.toNat < k.toNat)) ++ k :: Pos.all.filter fun j => decide (k.toNat < j.toNat) := by
  cases k <;> rfl

theorem all_nodup : Pos.all.Nodup := by decide

/-! ### Allocation (R162, R163) -/

/-- The entries that take part in a pass: counted, with a power section and the section the pass is for. -/
def passTakes (d : Dev) (has : Caps → Bool) (k : Pos) : Option PowerCap :=
  if d.counted k && has (d.entry k).caps then (d.entry k).caps.power else none

theorem passTakes_of_counted {d : Dev} {has : Caps → Bool} {k : Pos} {p : PowerCap} (counted : d.counted k = true)
    (h : has (d.entry k).caps = true) (power : (d.entry k).caps.power = some p) : passTakes d has k = some p := by
  simp [passTakes, counted, h, power]

theorem passTakes_of_not {d : Dev} {has : Caps → Bool} {k : Pos} (h : d.counted k = false ∨ has (d.entry k).caps = false) :
    passTakes d has k = none := by
  rcases h with h | h <;> simp [passTakes, h]

/-- The grants of a pass over the entries with a certain section, and the room it leaves. -/
def granted (d : Dev) (has : Caps → Bool) (requested : Per6 Byte) (room : Nat) : Per6 Byte × Nat :=
  grantPass (passTakes d has) requested.get room

section Granted

variable (d : Dev) (has : Caps → Bool) (requested : Per6 Byte) (room : Nat) {k : Pos}

theorem granted_of_none (h : passTakes d has k = none) : (granted d has requested room).1.get k = 0 := by
  have turns : ∀ (l : List Pos) (acc : Per6 Byte × Nat), acc.1.get k = 0 →
      (l.foldl (grantTurn (passTakes d has) requested.get) acc).1.get k = 0 := by
    intro l
    induction l with
    | nil => exact fun _ zero => zero
    | cons j l ih =>
      refine fun acc zero => ih _ ?_
      by_cases same : k = j
      · rw [← same, grantTurn_of_none h, zero]
      · rw [grantTurn_other same, zero]
  exact turns _ _ (Per6.get_const _ _)

/-- A position without a turn draws nothing, so what the pass counts is what is drawn. -/
theorem passDraw_granted (k : Pos) : passDraw (passTakes d has) (granted d has requested room).1 k =
    drawAt d (granted d has requested room).1 k := by
  cases takes : passTakes d has k with
  | none =>
    have zero := granted_of_none d has requested room takes
    cases power : (d.entry k).caps.power <;> simp [passDraw, drawAt, takes, zero, power]
  | some p =>
    have power : (d.entry k).caps.power = some p := by
      unfold passTakes at takes
      split at takes
      · exact takes
      · contradiction
    rw [passDraw, drawAt, takes, power]

theorem granted_room : (granted d has requested room).2 +
    (Pos.all.map (drawAt d (granted d has requested room).1)).sum = room := by
  rw [← funext (passDraw_granted d has requested room)]
  exact grantTurns_room Pos.all all_nodup

theorem granted_highestFit {p : PowerCap} (takes : passTakes d has k = some p) :
    HighestFit p (requested.get k).toNat ((granted d has requested room).1.get k).toNat
      (room - drawnBefore d (granted d has requested room).1 k) := by
  have fit := grantTurns_highestFit (requested := requested.get) (acc := (Per6.const 0, room))
    (all_eq_around k ▸ all_nodup) takes
  rw [← all_eq_around, ← grantPass_eq] at fit
  rw [drawnBefore, ← funext (passDraw_granted d has requested room)]
  exact fit

end Granted

/-- The grants to the display backlights, and behind them those to the key backlights. -/
def displayGrants (d : Dev) : Per6 Byte × Nat :=
  granted d (fun c => c.display.isSome) d.pcu.reqDisplay (d.pcu.live.budget.toNat - d.bases)

def keyGrants (d : Dev) : Per6 Byte × Nat := granted d (fun c => c.keys.isSome) d.pcu.reqKey (displayGrants d).2

theorem allocate_of_fits {d : Dev} (fits : d.bases ≤ d.pcu.live.budget.toNat) :
    d.allocate = { d with pcu := { d.pcu with
      baseSum := d.bases, remainder := (keyGrants d).2, short := false
      grantDisplay := (displayGrants d).1, grantKey := (keyGrants d).1 } } := if_neg (Nat.not_lt.mpr fits)

theorem allocate_of_short {d : Dev} (exceeds : d.pcu.live.budget.toNat < d.bases) :
    d.allocate.pcu = { d.pcu with
      baseSum := d.bases, remainder := (d.pcu.live.budget.toNat : Int) - d.bases, short := true
      grantDisplay := Per6.const 0, grantKey := Per6.const 0 } := by
  rw [Dev.allocate]
  dsimp only
  rw [if_pos exceeds]
  split <;> rfl

theorem sum_add (f g : Pos → Nat) (l : List Pos) : (l.map fun k => f k + g k).sum = (l.map f).sum + (l.map g).sum := by
  induction l with
  | nil => rfl
  | cons k l ih =>
    simp only [List.map_cons, List.sum_cons]
    omega

/-- What a position draws is what its two grants draw. -/
theorem drawn_eq (d : Dev) :
    drawn d = (Pos.all.map (drawAt d d.pcu.grantDisplay)).sum + (Pos.all.map (drawAt d d.pcu.grantKey)).sum := by
  rw [← sum_add, drawn]
  congr 2
  funext k
  unfold drawAt
  cases (d.entry k).caps.power <;> rfl

/-! ### What follows a step leaves the grants of its allocation (R163) -/

/-- A change that every step of a fold leaves is left by the fold. -/
theorem foldl_keeps {α : Type} (of : Dev → α) {f : Dev → Pos → Dev} (keeps : ∀ d k, of (f d k) = of d) (l : List Pos)
    (d : Dev) : of (l.foldl f d) = of d := by
  induction l generalizing d with
  | nil => rfl
  | cons k l ih => exact (ih _).trans (keeps d k)

/-- The Power Contract Unit's state and the fault log. -/
def supplyAndLog (d : Dev) : Pcu × FaultLog := (d.pcu, d.cm.log)

theorem unblock_supplyAndLog (d : Dev) (k : Pos) : supplyAndLog (d.unblock k) = supplyAndLog d := by
  unfold Dev.unblock
  split
  · rfl
  · split <;> rfl

theorem followLost_supplyAndLog (d : Dev) : supplyAndLog d.followLost = supplyAndLog d := by
  unfold Dev.followLost
  split <;> rfl

theorem wantSection_supplyAndLog (b : Bool) (i : SecId) (d : Dev) :
    supplyAndLog (d.when b (Dev.wantSec i)) = supplyAndLog d := by cases b <;> rfl

theorem wantSections_supplyAndLog (old d : Dev) : supplyAndLog (Dev.wantSections old d) = supplyAndLog d := by
  unfold Dev.wantSections
  simp only [wantSection_supplyAndLog]
  exact foldl_keeps supplyAndLog (fun d k => wantSection_supplyAndLog _ _ d) _ d

/-- Behind allocation nothing that follows a step touches the Power Contract Unit or the fault log. -/
theorem settle_supplyAndLog (old new : Dev) : supplyAndLog (Dev.settle old new) = supplyAndLog (Dev.allocateAfter old new) := by
  have offered (d : Dev) : supplyAndLog d.offerAll = supplyAndLog d := by
    rw [supplyAndLog, Dev.offerAll_pcu, Dev.offerAll_cm, supplyAndLog]
  have cursor (d : Dev) : supplyAndLog (Dev.wantCursor old d) = supplyAndLog d := rfl
  rw [Dev.settle, offered, cursor, wantSections_supplyAndLog, followLost_supplyAndLog]
  exact foldl_keeps supplyAndLog unblock_supplyAndLog _ _

/-- Allocation runs where the part is not braced and something it depends on has changed. -/
theorem settle_pcu_of_due {old new : Dev} (unbraced : new.pcu.braced = false) (due : Dev.allocationDue old new = true) :
    (Dev.settle old new).pcu = new.allocate.pcu := by
  refine (congrArg Prod.fst (settle_supplyAndLog old new)).trans ?_
  rw [Dev.allocateAfter, if_pos ⟨unbraced, due⟩]
  rfl

/-! ### The obligation on the grants -/

/-- Settles O51: the two passes of allocation give each position the highest level that fits, and settle runs allocation. -/
theorem grantsWithinBudget : Obligations.GrantsWithinBudget := by
  unfold Obligations.GrantsWithinBudget
  refine ⟨fun d => ⟨fun fits a room ha hroom => ?fits, fun exceeds => ?exceeds⟩, fun f s t run unbraced due => ?settled⟩
  case fits =>
    rw [allocate_of_fits fits] at ha
    have display : (displayGrants d).2 + (Pos.all.map (drawAt d (displayGrants d).1)).sum = d.pcu.live.budget.toNat - d.bases :=
      granted_room d _ _ _
    have keys : (keyGrants d).2 + (Pos.all.map (drawAt d (keyGrants d).1)).sum = (displayGrants d).2 := granted_room d _ _ _
    have total : drawn a = (Pos.all.map (drawAt d (displayGrants d).1)).sum + (Pos.all.map (drawAt d (keyGrants d).1)).sum := by
      rw [ha]
      exact drawn_eq _
    subst ha
    refine ⟨Int.natCast_nonneg _, ?_, rfl, fun k =>
      ⟨fun p counted power => ⟨fun has => ?_, fun has => ?_⟩, fun no => ?_, fun no => ?_⟩⟩
    · rw [total]
      show ((keyGrants d).2 : Int) = _
      omega
    · rw [hroom]
      exact granted_highestFit d _ _ _ (passTakes_of_counted (has := fun c => c.display.isSome) counted has power)
    · have left : room - (Pos.all.map (drawAt d (displayGrants d).1)).sum = (displayGrants d).2 := by omega
      show HighestFit p _ _ (room - (Pos.all.map (drawAt d (displayGrants d).1)).sum - drawnBefore d (keyGrants d).1 k)
      rw [left]
      exact granted_highestFit d _ _ _ (passTakes_of_counted (has := fun c => c.keys.isSome) counted has power)
    · exact granted_of_none d _ _ _ (passTakes_of_not (has := fun c => c.display.isSome) no)
    · exact granted_of_none d _ _ _ (passTakes_of_not (has := fun c => c.keys.isSome) no)
  case exceeds =>
    rw [allocate_of_short exceeds]
    exact ⟨by dsimp only; omega, rfl, fun k => ⟨Per6.get_const _ _, Per6.get_const _ _⟩⟩
  case settled =>
    rw [State.runSettled_eq, Host.Outcome.next.injEq] at run
    rw [← run]
    exact settle_pcu_of_due unbraced due

end Sys2Proof.Proofs.Allocation
end

section
/-! SUPPORT. The order of the preference and the pick, selection, the results of SUPPLY, the timers of contract and brace
(R153 to R163): O31, O50. -/
namespace Sys2Proof.Proofs.SupplyContract

open Sys2Proof.Machine Sys2Proof.Safety
open Sys2Proof.Proofs.InputJournal (bump_eq)
open Sys2Proof.Proofs.DisplayUpdates (resultTaken withResult_of_head resultCode_of_not_releasing)
open Sys2Proof.Proofs.Allocation (settle_supplyAndLog settle_pcu_of_due)

/-! ### The order of the preference (R154) -/

theorem firstOf_compare (a b : Nat) (r : List Ordering) :
    firstOf (compare a b :: r) = true ↔ a < b ∨ (a = b ∧ firstOf r = true) := by
  rcases Nat.lt_trichotomy a b with lower | same | higher
  · rw [Nat.compare_eq_lt.mpr lower, firstOf]
    exact iff_of_true rfl (.inl lower)
  · rw [Nat.compare_eq_eq.mpr same, firstOf]
    exact ⟨fun rest => .inr ⟨same, rest⟩, fun either => either.elim (fun lower => absurd same (Nat.ne_of_lt lower)) And.right⟩
  · rw [Nat.compare_eq_gt.mpr higher, firstOf]
    exact iff_of_false Bool.false_ne_true fun either => either.elim (Nat.lt_asymm higher) fun both => Nat.ne_of_gt higher both.1

section Better

variable {p : Policy} {i j k : Nat} {a b c : Offer}

/-- MOST_POWER: the higher power, then the lower current, then the lower index. -/
theorem better_mostPower_iff (h : p.preference = .mostPower) : p.better i a j b = true ↔
    b.halfPower < a.halfPower ∨ b.halfPower = a.halfPower ∧
      (a.cur.toNat < b.cur.toNat ∨ a.cur.toNat = b.cur.toNat ∧ i < j) := by
  simp [Policy.better, h, firstOf_compare, firstOf]

/-- LEAST_CURRENT: among offers that meet the minimum power the lower current, then the lower voltage, then the lower index;
they stand before the others, of which the higher power goes first. -/
theorem better_leastCurrent_iff (h : p.preference = .leastCurrent) : p.better i a j b = true ↔
    (p.met a = true ∧ p.met b = false) ∨
    (p.met a = true ∧ p.met b = true ∧ (a.cur.toNat < b.cur.toNat ∨ a.cur.toNat = b.cur.toNat ∧
      (a.volt.toNat < b.volt.toNat ∨ a.volt.toNat = b.volt.toNat ∧ i < j))) ∨
    (p.met a = false ∧ p.met b = false ∧ (b.halfPower < a.halfPower ∨ b.halfPower = a.halfPower ∧ i < j)) := by
  cases ha : p.met a <;> cases hb : p.met b <;> simp [Policy.better, h, ha, hb, firstOf_compare, firstOf]

/-- HIGHEST_VOLTAGE: the higher voltage, then the higher current, then the lower index. -/
theorem better_highestVoltage_iff (h : p.preference = .highestVoltage) : p.better i a j b = true ↔
    b.volt.toNat < a.volt.toNat ∨ b.volt.toNat = a.volt.toNat ∧
      (b.cur.toNat < a.cur.toNat ∨ b.cur.toNat = a.cur.toNat ∧ i < j) := by
  simp [Policy.better, h, firstOf_compare, firstOf]

theorem better_irrefl (p : Policy) (i : Nat) (a : Offer) : p.better i a i a = false := by
  rw [Bool.eq_false_iff]
  cases h : p.preference with
  | mostPower => rw [ne_eq, better_mostPower_iff h]; omega
  | leastCurrent => rw [ne_eq, better_leastCurrent_iff h]; cases p.met a <;> simp
  | highestVoltage => rw [ne_eq, better_highestVoltage_iff h]; omega

theorem better_trans (ab : p.better i a j b = true) (bc : p.better j b k c = true) : p.better i a k c = true := by
  cases h : p.preference with
  | mostPower =>
    rw [better_mostPower_iff h] at *
    omega
  | leastCurrent =>
    rw [better_leastCurrent_iff h] at *
    revert ab bc
    cases p.met a <;> cases p.met b <;> cases p.met c <;> simp <;> omega
  | highestVoltage =>
    rw [better_highestVoltage_iff h] at *
    omega

end Better

/-! ### The pick (R154) -/

/-- Of the offers seen, the best one: none where none was seen, and otherwise one that no other stands ahead of. -/
def BestOf (p : Policy) (seen : List (Nat × Offer)) (best : Option (Nat × Offer)) : Prop :=
  (best = none → seen = []) ∧
    ∀ b, best = some b → b ∈ seen ∧ ∀ c ∈ seen, p.better c.1 c.2 b.1 b.2 = false

theorem BestOf.pickOf {p : Policy} {seen : List (Nat × Offer)} {best : Option (Nat × Offer)} (h : BestOf p seen best)
    (c : Nat × Offer) : BestOf p (seen ++ [c]) (p.pickOf best c) := by
  obtain ⟨nothing, first⟩ := h
  cases best with
  | none =>
    refine ⟨nofun, ?_⟩
    rintro _ ⟨⟩
    simp [nothing rfl, better_irrefl]
  | some b =>
    obtain ⟨mem, least⟩ := first b rfl
    by_cases ahead : p.better c.1 c.2 b.1 b.2 = true
    · rw [Policy.pickOf, if_pos ahead]
      refine ⟨nofun, ?_⟩
      rintro _ ⟨⟩
      refine ⟨by simp, fun e seen => ?_⟩
      rcases List.mem_append.mp seen with before | last
      · refine Bool.eq_false_iff.mpr fun earlier => ?_
        have := better_trans earlier ahead
        rw [least e before] at this
        contradiction
      · rw [List.mem_singleton.mp last, better_irrefl]
    · rw [Policy.pickOf, if_neg ahead]
      refine ⟨nofun, ?_⟩
      rintro _ ⟨⟩
      refine ⟨List.mem_append_left _ mem, fun e seen => ?_⟩
      rcases List.mem_append.mp seen with before | last
      · exact least e before
      · rw [List.mem_singleton.mp last]
        exact Bool.eq_false_iff.mpr ahead

theorem BestOf.foldl {p : Policy} (l : List (Nat × Offer)) {seen : List (Nat × Offer)} {best : Option (Nat × Offer)}
    (h : BestOf p seen best) : BestOf p (seen ++ l) (l.foldl p.pickOf best) := by
  induction l generalizing seen best with
  | nil => simpa using h
  | cons c l ih => simpa using ih (h.pickOf c)

theorem pick_bestOf (d : Dev) :
    BestOf d.pcu.policy (d.indexedOffers.filter fun c => d.pcu.eligible c.1 c.2) d.pick :=
  BestOf.foldl (seen := []) _ ⟨fun _ => rfl, nofun⟩

theorem mem_indexedOffers (d : Dev) (n : Nat) (x : Offer) : (n, x) ∈ d.indexedOffers ↔ d.offers[n]? = some x := by
  simp only [Dev.indexedOffers, List.mem_iff_getElem?, List.getElem?_zip_eq_some]
  constructor
  · rintro ⟨i, index, found⟩
    obtain ⟨-, rfl⟩ := List.getElem?_eq_some_iff.mp index
    simpa using found
  · intro found
    obtain ⟨inside, -⟩ := List.getElem?_eq_some_iff.mp found
    exact ⟨n, List.getElem?_range inside, found⟩

/-- The offers that selection looks at (R154). -/
def Eligible (d : Dev) (n : Nat) (x : Offer) : Prop := d.offers[n]? = some x ∧ d.pcu.eligible n x = true

theorem mem_eligible (d : Dev) (n : Nat) (x : Offer) :
    (n, x) ∈ d.indexedOffers.filter (fun c => d.pcu.eligible c.1 c.2) ↔ Eligible d n x := by
  rw [List.mem_filter, mem_indexedOffers, Eligible]

theorem eligible_iff (d : Dev) (n : Nat) (x : Offer) : Eligible d n x ↔
    d.offers[n]? = some x ∧ d.pcu.live.enabled.getLsbD n = true ∧ d.pcu.refused.getLsbD n = false ∧
      d.pcu.policy.minVolt.toNat ≤ x.volt.toNat ∧ x.volt.toNat ≤ d.pcu.policy.maxVolt.toNat := by
  simp [Eligible, Pcu.eligible, and_assoc]

theorem not_eligible_of_no_pick {d : Dev} (h : d.pick = none) (n : Nat) (x : Offer) : ¬ Eligible d n x := by
  rw [← mem_eligible, (pick_bestOf d).1 h]
  exact List.not_mem_nil

theorem eligible_of_pick {d : Dev} {n : Nat} {x : Offer} (h : d.pick = some (n, x)) : Eligible d n x :=
  (mem_eligible d n x).mp ((pick_bestOf d).2 _ h).1

theorem pick_first {d : Dev} {n m : Nat} {x y : Offer} (h : d.pick = some (n, x)) (other : Eligible d m y) :
    d.pcu.policy.better m y n x = false :=
  ((pick_bestOf d).2 _ h).2 _ ((mem_eligible d m y).mpr other)

/-- The enabled set has eight bits, so the index of a pick is a byte's value. -/
theorem pick_index {d : Dev} {n : Nat} {x : Offer} (h : d.pick = some (n, x)) : (BitVec.ofNat 8 n).toNat = n := by
  obtain ⟨-, enabled, -⟩ := (eligible_iff d n x).mp (eligible_of_pick h)
  have := BitVec.lt_of_getLsbD enabled
  rw [BitVec.toNat_ofNat]
  omega

/-! ### The contract and its SUPPLY (R155, R158, R159, R166) -/

/-- A change of state of the contract, with the offer and the mismatch that come with it, advances CONTRACT (R166). -/
theorem setContract_of_moved {d : Dev} {c : ContractState} (moved : d.pcu.contract ≠ c) (o : Option Byte) (m : Bool) :
    d.setContract c o m = { d with
      pcu := { d.pcu with contract := c, offer := o, mismatch := m }
      xp := bumped .contract d.xp
      pub := { d.pub with counters := d.pub.counters.set .contract true } } := by
  rw [Dev.setContract]
  dsimp only
  rw [if_pos (.inl moved), bump_eq]

/-- Selection and its messages touch the contract, its SUPPLY and the CONTRACT counter, and nothing else. -/
def ContractMoved (a d : Dev) : Prop :=
  d = { a with
    xp := d.xp, pub := d.pub, le := d.le
    pcu := { a.pcu with
      contract := d.pcu.contract, offer := d.pcu.offer, mismatch := d.pcu.mismatch, owed := d.pcu.owed
      baseRequest := d.pcu.baseRequest } }

theorem ContractMoved.trans {a b c : Dev} (h : ContractMoved a b) (g : ContractMoved b c) : ContractMoved a c := by
  unfold ContractMoved at *
  rw [g, h]

theorem ContractMoved.cm {a d : Dev} (h : ContractMoved a d) : d.cm = a.cm := by rw [h]

/-- Moved or not, the contract takes what it is given, and the CONTRACT counter alone may follow. -/
theorem setContract_only (c : ContractState) (o : Option Byte) (m : Bool) (d : Dev) : ∃ x q, d.setContract c o m =
    { d with pcu := { d.pcu with contract := c, offer := o, mismatch := m }, xp := x, pub := q } := by
  rw [Dev.setContract]
  dsimp only
  split
  · exact ⟨_, _, bump_eq _ _⟩
  · exact ⟨_, _, rfl⟩

theorem setContract_contractMoved (c : ContractState) (o : Option Byte) (m : Bool) (d : Dev) :
    ContractMoved d (d.setContract c o m) := by
  obtain ⟨x, q, h⟩ := setContract_only c o m d
  rw [h]
  rfl

theorem setContract_pcu (c : ContractState) (o : Option Byte) (m : Bool) (d : Dev) :
    (d.setContract c o m).pcu = { d.pcu with contract := c, offer := o, mismatch := m } := by
  obtain ⟨x, q, h⟩ := setContract_only c o m d
  rw [h]

theorem setContract_le (c : ContractState) (o : Option Byte) (m : Bool) (d : Dev) : (d.setContract c o m).le = d.le := by
  obtain ⟨x, q, h⟩ := setContract_only c o m d
  rw [h]

/-- Whatever becomes of the SUPPLY now wanted, the Link Engine alone is touched. -/
theorem queueSupply_only (d : Dev) : ∃ l, d.queueSupply = { d with le := l } := by
  unfold Dev.queueSupply
  cases d.supplyPayload with
  | none => exact ⟨d.le, rfl⟩
  | some p =>
    dsimp only
    unfold Dev.submit
    by_cases gone : d.goneAtOnce .p1 (Msg.new .pcu p) = true
    · simp only [gone, if_true]; exact ⟨_, rfl⟩
    · by_cases full : queueFull (d.queue .p1) (Msg.new .pcu p) = true
      · simp only [gone, full, if_true]; exact ⟨_, rfl⟩
      · simp only [gone, full]; exact ⟨_, rfl⟩

theorem queueSupply_contractMoved (d : Dev) : ContractMoved d d.queueSupply := by
  obtain ⟨l, h⟩ := queueSupply_only d
  rw [h]
  rfl

theorem queueSupply_pcu (d : Dev) : d.queueSupply.pcu = d.pcu := by
  obtain ⟨l, h⟩ := queueSupply_only d
  rw [h]

/-- A SUPPLY that the queue takes stands in it. -/
theorem queueSupply_joins {d : Dev} {p : Payload} (wanted : d.supplyPayload = some p) : Joins .p1 .pcu p d d.queueSupply := by
  rintro ⟨notGone, notFull⟩
  simp only [Dev.queueSupply, wanted, Dev.submit, notGone, notFull, Bool.false_eq_true, if_false]
  rw [Dev.queue_setQueue, if_pos rfl]
  exact List.mem_append_right _ (List.mem_singleton_self _)

theorem queueFull_filter {q : List Msg} {m : Msg} (f : Msg → Bool) (h : queueFull q m = false) :
    queueFull (q.filter f) m = false := by
  have len : (q.filter f).length ≤ q.length := List.length_filter_le _ _
  have others : nonSession (q.filter f) ≤ nonSession q := (List.filter_sublist.filter _).length_le
  unfold queueFull at *
  by_cases session : m.payload.isSession = true
  · simp only [session, if_true, decide_eq_false_iff_not] at *
    omega
  · simp only [session, Bool.false_eq_true, if_false, Bool.or_eq_false_iff, decide_eq_false_iff_not] at *
    omega

/-- A queue from which a SUPPLY has been withdrawn takes what it took before. -/
theorem takes_withdrawSupply {d : Dev} {m : Msg} (h : Takes d .p1 m) : Takes d.withdrawSupply .p1 m :=
  ⟨h.1, queueFull_filter _ h.2⟩

/-! ### Selection (R154, R155, R159) -/

section Selection

variable {d : Dev} {n : Nat} {x : Offer}

/-- The part as selection finds a pick: the SUPPLY not yet sent withdrawn, no selection owed and no base request (R158). -/
def selecting (d : Dev) : Dev :=
  { d.withdrawSupply with pcu := { d.pcu with owed := false, baseRequest := false } }

theorem select_of_pick (notActive : d.pcu.contract ≠ .active) (picked : d.pick = some (n, x)) :
    d.select = (selecting d).requestOffer n x := by
  have picked' : ({ d with pcu := { d.pcu with owed := false } } : Dev).pick = some (n, x) := picked
  simp only [Dev.select, picked', notActive, false_and, if_false]
  rfl

/-- The part as selection finds no pick: the SUPPLY not yet sent withdrawn, and no selection owed. -/
def leavingOffer (d : Dev) : Dev := { d.withdrawSupply with pcu := { d.pcu with owed := false } }

theorem select_of_no_pick (notBase : d.pcu.contract ≠ .base) (noPick : d.pick = none) :
    d.select = (leavingOffer d).enterBase := by
  have noPick' : ({ d with pcu := { d.pcu with owed := false } } : Dev).pick = none := noPick
  simp only [Dev.select, noPick']
  exact if_pos notBase

/-- The SUPPLY wanted of a contract in REQUESTED is that of its offer. -/
theorem supplyPayload_of_requested {i : Byte} (requested : d.pcu.contract = .requested) (offer : d.pcu.offer = some i)
    (listed : d.offers[i.toNat]? = some x) : d.supplyPayload = some (.supply i x.cur d.pcu.mismatch false) := by
  simp [Dev.supplyPayload, requested, offer, listed]

theorem supplyPayload_of_base (base : d.pcu.contract = .base) (request : d.pcu.baseRequest = true) :
    d.supplyPayload = some (.supply 0 150 true true) := by
  simp [Dev.supplyPayload, base, request]

/-- Takes is about the queues and the node table alone. -/
theorem takes_congr {s e : Dev} {k : Pos} {m : Msg} (le : e.le = s.le) (cm : e.cm = s.cm) (h : Takes s k m) : Takes e k m := by
  have same : e.goneAtOnce k m = s.goneAtOnce k m ∧ e.queue k = s.queue k := by
    unfold Dev.goneAtOnce Dev.entry Dev.queue
    rw [le, cm]
    exact ⟨rfl, rfl⟩
  unfold Takes
  rw [same.1, same.2]
  exact h

theorem setContract_takes {k : Pos} {m : Msg} (c : ContractState) (o : Option Byte) (mis : Bool) {e : Dev} (h : Takes e k m) :
    Takes (e.setContract c o mis) k m :=
  takes_congr (setContract_le c o mis e) (setContract_contractMoved c o mis e).cm h

/-- The contract requests the pick (R155). -/
theorem select_requests (notActive : d.pcu.contract ≠ .active) (picked : d.pick = some (n, x)) :
    d.select.pcu = { d.pcu with
      contract := .requested, offer := some (BitVec.ofNat 8 n), mismatch := !d.pcu.policy.met x
      owed := false, baseRequest := false } ∧
    Joins .p1 .pcu (.supply (BitVec.ofNat 8 n) x.cur (!d.pcu.policy.met x) false) d d.select ∧ ContractMoved d d.select := by
  have listed : d.offers[(BitVec.ofNat 8 n).toNat]? = some x := by
    rw [pick_index picked]
    exact (eligible_of_pick picked).1
  rw [select_of_pick notActive picked, Dev.requestOffer]
  have pcu := setContract_pcu .requested (some (BitVec.ofNat 8 n)) (!(selecting d).pcu.policy.met x) (selecting d)
  have moved := setContract_contractMoved .requested (some (BitVec.ofNat 8 n)) (!(selecting d).pcu.policy.met x) (selecting d)
  have takes (m : Msg) (h : Takes d .p1 m) := setContract_takes .requested (some (BitVec.ofNat 8 n))
    (!(selecting d).pcu.policy.met x) (show Takes (selecting d) .p1 m from takes_withdrawSupply h)
  generalize (selecting d).setContract _ _ _ = e at pcu moved takes ⊢
  refine ⟨(queueSupply_pcu e).trans pcu, ?_, ?_⟩
  · have same : e.offers = d.offers := by rw [moved]; rfl
    have wanted := supplyPayload_of_requested (d := e) (by rw [pcu]) (by rw [pcu]) (same ▸ listed)
    rw [pcu] at wanted
    exact fun taken => queueSupply_joins wanted (takes _ taken)
  · exact ContractMoved.trans (show ContractMoved d (selecting d) from rfl) (moved.trans (queueSupply_contractMoved e))

/-- The part with the base request made. -/
def requestingBase (d : Dev) : Dev := { d with pcu := { d.pcu with baseRequest := true } }

theorem requestingBase_contractMoved (d : Dev) : ContractMoved d (requestingBase d) := rfl

/-- With no pick the contract is BASE (R159). -/
theorem select_base (notBase : d.pcu.contract ≠ .base) (noPick : d.pick = none) :
    d.select.pcu = { d.pcu with
      contract := .base, offer := none, mismatch := false, owed := false, baseRequest := d.select.pcu.baseRequest } ∧
    ((d.pcu.live.supply = 1 ∨ d.pcu.live.supply = 2) → d.pcu.refused.getLsbD 0 = false →
      d.select.pcu.baseRequest = true ∧ Joins .p1 .pcu (.supply 0 150 true true) d d.select) ∧
    ContractMoved d d.select := by
  rw [select_of_no_pick notBase noPick, Dev.enterBase]
  have pcu := setContract_pcu .base none false (leavingOffer d)
  have moved := ContractMoved.trans (show ContractMoved d (leavingOffer d) from rfl)
    (setContract_contractMoved .base none false (leavingOffer d))
  have takes (m : Msg) (h : Takes d .p1 m) :=
    setContract_takes .base none false (show Takes (leavingOffer d) .p1 m from takes_withdrawSupply h)
  have owed : (leavingOffer d).pcu = { d.pcu with owed := false } := rfl
  generalize (leavingOffer d).setContract .base none false = e at pcu moved takes ⊢
  rw [owed] at pcu
  dsimp only
  by_cases request : (e.pcu.live.supply = 1 ∨ e.pcu.live.supply = 2) ∧ e.pcu.refused.getLsbD 0 = false
  · rw [if_pos request, queueSupply_pcu]
    refine ⟨by rw [pcu], fun _ _ => ⟨rfl, ?_⟩,
      moved.trans ((requestingBase_contractMoved e).trans (queueSupply_contractMoved _))⟩
    exact fun taken => queueSupply_joins (supplyPayload_of_base (by rw [pcu]) rfl) (takes _ taken)
  · rw [if_neg request]
    refine ⟨by rw [pcu], fun supplying offered => absurd ⟨?_, ?_⟩ request, moved⟩
    · rw [pcu]; exact supplying
    · rw [pcu]; exact offered

/-- Selection of a contract that waits for an answer or is in transition. -/
theorem select_contractMoved (notActive : d.pcu.contract ≠ .active) (notBase : d.pcu.contract ≠ .base) :
    ContractMoved d d.select := by
  cases picked : d.pick with
  | none =>
    obtain ⟨-, -, moved⟩ := select_base notBase picked
    exact moved
  | some c =>
    obtain ⟨-, -, moved⟩ := select_requests notActive picked
    exact moved

end Selection

/-! ### A refusal (R156, R157, R166) -/

/-- The part with an offer in the refused set. -/
def offerRefused (i : Byte) (d : Dev) : Dev :=
  { d with pcu := { d.pcu with refused := d.pcu.refused ||| (1#8 <<< i.toNat) } }

theorem refuseOffer_of_offer {d : Dev} {i : Byte} (offer : d.pcu.offer = some i) :
    d.refuseOffer = (offerRefused i d).select := by
  unfold Dev.refuseOffer
  split
  · next absent => rw [offer] at absent; contradiction
  · next j present => cases offer.symm.trans present; rfl

/-- What a refusal leaves, whatever selection finds. -/
theorem refuseOffer_frame {d : Dev} {i : Byte} (offer : d.pcu.offer = some i) (notActive : d.pcu.contract ≠ .active)
    (notBase : d.pcu.contract ≠ .base) : ContractMoved (offerRefused i d) d.refuseOffer := by
  rw [refuseOffer_of_offer offer]
  exact select_contractMoved (d := offerRefused i d) notActive notBase

/-! ### The result of a SUPPLY (R156) -/

/-- The result of the contract's SUPPLY at the head of the results is answered to the contract. -/
theorem supplyDone_of_head {d : Dev} {r : CtrlResult} {rest : List CtrlResult} {o : Byte} {c : W16} {m : Bool}
    (head : d.le.results = r :: rest) (payload : r.payload = .supply o c m false)
    (staying : (d.entry r.pos).releasing = false) :
    d.withResult (fun r => r.payload.isSupply) Dev.supplyDone = (resultTaken rest d).contractResult r.code := by
  rw [withResult_of_head head (by rw [payload]; rfl), resultCode_of_not_releasing staying, Dev.supplyDone, payload]
  rfl

theorem contractResult_done {d : Dev} (requested : d.pcu.contract = .requested) :
    d.contractResult .done = { d with
      pcu := { d.pcu with contract := .transition, transTimer := 0 }
      xp := bumped .contract d.xp
      pub := { d.pub with counters := d.pub.counters.set .contract true } } := by
  unfold Dev.contractResult
  rw [if_neg fun moved => moved requested]
  dsimp only
  rw [setContract_of_moved (by rw [requested]; decide)]
  rfl

theorem contractResult_refused {d : Dev} {code : ResultCode} (requested : d.pcu.contract = .requested)
    (refused : code = .refused ∨ code = .busyTimeout) : d.contractResult code = d.refuseOffer := by
  unfold Dev.contractResult
  rw [if_neg fun moved => moved requested]
  rcases refused with rfl | rfl <;> rfl

theorem exec_supplyResult (s : State) : exec .supplyResult s =
    .next { s with dev := Dev.settle s.dev (s.dev.withResult (fun r => r.payload.isSupply) Dev.supplyDone) } := rfl

/-- What follows a step leaves the contract. -/
theorem settled_contract {own d : Dev} (h : Settled own d) :
    d.pcu.contract = own.pcu.contract ∧ d.pcu.offer = own.pcu.offer ∧ d.pcu.mismatch = own.pcu.mismatch ∧
      d.pcu.owed = own.pcu.owed ∧ d.pcu.baseRequest = own.pcu.baseRequest := by
  rw [h.pcu]
  exact ⟨rfl, rfl, rfl, rfl, rfl⟩

theorem settled_joins {k : Pos} {sub : Block} {p : Payload} {s own d : Dev} (h : Settled own d) (joins : Joins k sub p s own) :
    Joins k sub p s d := by
  intro takes
  rw [Dev.queue, h.le]
  exact joins takes

/-- What selection of a contract that waits for an answer, or is in transition, has brought about at the end of the step. -/
theorem settled_select {e d : Dev} (notActive : e.pcu.contract ≠ .active) (notBase : e.pcu.contract ≠ .base)
    (own : Settled e.select d) : d.pcu.owed = false ∧
    (∀ n x, e.pick = some (n, x) → d.pcu.contract = .requested ∧ d.pcu.offer = some (BitVec.ofNat 8 n) ∧
      d.pcu.mismatch = (!e.pcu.policy.met x) ∧ d.pcu.baseRequest = false ∧
      Joins .p1 .pcu (.supply (BitVec.ofNat 8 n) x.cur (!e.pcu.policy.met x) false) e d) ∧
    (e.pick = none → d.pcu.contract = .base ∧ d.pcu.offer = none ∧ d.pcu.mismatch = false ∧
      ((e.pcu.live.supply = 1 ∨ e.pcu.live.supply = 2) → e.pcu.refused.getLsbD 0 = false →
        d.pcu.baseRequest = true ∧ Joins .p1 .pcu (.supply 0 150 true true) e d)) := by
  obtain ⟨contract, offered, mismatch, owed, request⟩ := settled_contract own
  rw [contract, offered, mismatch, owed, request]
  refine ⟨?_, fun n x picked => ?_, fun noPick => ?_⟩
  · cases picked : e.pick with
    | none =>
      obtain ⟨pcu, -, -⟩ := select_base notBase picked
      rw [pcu]
    | some c =>
      obtain ⟨pcu, -, -⟩ := select_requests notActive picked
      rw [pcu]
  · obtain ⟨pcu, joins, -⟩ := select_requests notActive picked
    rw [pcu]
    exact ⟨rfl, rfl, rfl, rfl, settled_joins own joins⟩
  · obtain ⟨pcu, request, -⟩ := select_base notBase noPick
    refine ⟨by rw [pcu], by rw [pcu], by rw [pcu], fun supplying free => ?_⟩
    obtain ⟨requested, joins⟩ := request supplying free
    exact ⟨requested, settled_joins own joins⟩

/-- What a contract moves leaves the node table, the Session Controller, host memory and the refused set as they were. -/
theorem settled_of_contractMoved {a own d : Dev} (moved : ContractMoved a own) (h : Settled own d) :
    d.pcu.refused = a.pcu.refused ∧ d.cm.table = a.cm.table ∧ d.sc = a.sc ∧ d.mem = a.mem := by
  rw [h.pcu, h.cm, h.sc, h.mem, moved]
  exact ⟨rfl, rfl, rfl, rfl⟩

/-- Settles O31: the contract goes to TRANSITION, or the offer is refused and selection decides; the pick is the best of the
eligible offers. -/
theorem supplyResultEffect : Obligations.SupplyResultEffect := by
  unfold Obligations.SupplyResultEffect
  refine ⟨fun s r rest o c m head payload staying requested => ?result, fun u eligible heligible => ?pick⟩
  case pick =>
    have iff (n : Nat) (x : Offer) : eligible n x ↔ Eligible u n x := (heligible n x).trans (eligible_iff u n x).symm
    refine ⟨fun noPick n x => ?_, fun n x picked => ⟨(iff n x).mpr (eligible_of_pick picked), fun m y other => ?_⟩⟩
    · exact fun found => not_eligible_of_no_pick noPick n x ((iff n x).mp found)
    · exact pick_first picked ((iff m y).mp other)
  case result =>
    have result := supplyDone_of_head head payload staying
    have requested' : (resultTaken rest s.dev).pcu.contract = .requested := requested
    have own := settle_settled s.dev (s.dev.withResult (fun r => r.payload.isSupply) Dev.supplyDone)
    refine ⟨fun done => ⟨_, exec_supplyResult s, ?done⟩, fun i refused offer => ⟨_, exec_supplyResult s, ?frame⟩,
      fun i u refused offer hu => ⟨_, exec_supplyResult s, ?selection⟩⟩
    case done =>
      rw [result, done, contractResult_done requested'] at own ⊢
      exact own
    case frame =>
      have moved := refuseOffer_frame (d := resultTaken rest s.dev) offer (by rw [requested']; decide) (by rw [requested']; decide)
      rw [← contractResult_refused requested' refused, ← result] at moved
      exact settled_of_contractMoved moved own
    case selection =>
      have selects : s.dev.withResult (fun r => r.payload.isSupply) Dev.supplyDone =
          (offerRefused i (resultTaken rest s.dev)).select :=
        result.trans ((contractResult_refused requested' refused).trans (refuseOffer_of_offer offer))
      have notActive : (offerRefused i (resultTaken rest s.dev)).pcu.contract ≠ .active := by
        show s.dev.pcu.contract ≠ _; rw [requested]; decide
      have notBase : (offerRefused i (resultTaken rest s.dev)).pcu.contract ≠ .base := by
        show s.dev.pcu.contract ≠ _; rw [requested]; decide
      subst hu
      rw [selects] at own ⊢
      exact settled_select notActive notBase own

/-! ### The timers of the Power Contract Unit (R157, R161) -/

theorem exec_contractTimeout (s : State) :
    exec .contractTimeout s = .next { s with dev := Dev.settle s.dev s.dev.contractTimeout } := rfl

theorem exec_braceEnd (s : State) : exec .braceEnd s = .next { s with dev := Dev.settle s.dev s.dev.braceEnd } := rfl

/-- The part behind the record of a CONTRACT_TIMEOUT. -/
def timeoutLogged (d : Dev) : Dev := d.logFault .contractTimeout .position 1 false .none

theorem contractTimeout_of_due {d : Dev} (transition : d.pcu.contract = .transition) (late : 500 ≤ d.pcu.transTimer) :
    d.contractTimeout = (timeoutLogged d).refuseOffer := if_pos ⟨transition, late⟩

theorem mem_timeoutLogged (d : Dev) :
    nextRecord d .contractTimeout .position 1 false .none ∈ (timeoutLogged d).cm.log.records :=
  List.mem_append_right _ (List.mem_singleton_self _)

/-- Allocation depends on nothing that a contract moves (R163). -/
theorem allocationDue_of_contractMoved {a d : Dev} (moved : ContractMoved a d) : Dev.allocationDue a d = false := by
  have counted (k : Pos) : d.counted k = a.counted k := by
    unfold Dev.counted Dev.entry
    rw [moved.cm]
  unfold Dev.allocationDue
  simp only [counted]
  rw [moved]
  simp

/-- Where allocation does not run, what follows a step logs nothing. -/
theorem settle_log_of_not_due {old new : Dev} (notDue : Dev.allocationDue old new = false) :
    (Dev.settle old new).cm.log = new.cm.log := by
  refine (congrArg Prod.snd (settle_supplyAndLog old new)).trans ?_
  rw [Dev.allocateAfter, if_neg fun due => Bool.false_ne_true (notDue.symm.trans due.2)]
  rfl

/-- The brace ends 200 superframes after both its conditions (R161). -/
theorem braceEnd_of_due {d : Dev} (braced : d.pcu.braced = true) (dip : d.pcu.live.dip = false) (crank : d.slu.crank = false)
    (clear : 200 ≤ d.pcu.clearCount) : d.braceEnd = { d with pcu := { d.pcu with braced := false, clearCount := 0 } } :=
  if_pos ⟨braced, by simp [Dev.braceCondition, dip, crank], clear⟩

/-- Settles O50: a timeout is logged ahead of the refusal, and the end of the brace is itself a cause of allocation. -/
theorem powerTimers : Obligations.PowerTimers := by
  unfold Obligations.PowerTimers
  refine fun s => ⟨fun i transition late offer => ⟨_, exec_contractTimeout s, ?timeout⟩,
    fun braced dip crank clear u hu => ⟨_, exec_braceEnd s, ?brace⟩⟩
  case timeout =>
    have moved : ContractMoved (offerRefused i (timeoutLogged s.dev)) s.dev.contractTimeout := by
      have unchanged : (timeoutLogged s.dev).pcu.contract = .transition := transition
      rw [contractTimeout_of_due transition late]
      exact refuseOffer_frame (d := timeoutLogged s.dev) offer (by rw [unchanged]; decide) (by rw [unchanged]; decide)
    have logged : Dev.allocationDue s.dev = Dev.allocationDue (offerRefused i (timeoutLogged s.dev)) := rfl
    have notDue : Dev.allocationDue s.dev s.dev.contractTimeout = false := by
      rw [logged, allocationDue_of_contractMoved moved]
    obtain ⟨refused, table, sc, mem⟩ := settled_of_contractMoved moved (settle_settled s.dev s.dev.contractTimeout)
    refine ⟨refused, ?_, table, sc, mem⟩
    rw [settle_log_of_not_due notDue, moved.cm]
    exact mem_timeoutLogged s.dev
  case brace =>
    rw [braceEnd_of_due braced dip crank clear, ← hu]
    refine ⟨settle_settled s.dev u, settle_pcu_of_due (by rw [hu]) ?_⟩
    simp [Dev.allocationDue, hu, braced]

end Sys2Proof.Proofs.SupplyContract
end

section
/-! SUPPORT. The result of a STATUS_BLOCK, and an entry whose configuring it completes (R7, R61, R87, R165): O33. -/
namespace Sys2Proof.Proofs.StatusBlock

open Sys2Proof.Machine Sys2Proof.Safety
open Sys2Proof.Proofs.InputJournal (bump_eq)
open Sys2Proof.Proofs.DisplayUpdates (resultTaken withResult_of_head resultCode_of_not_releasing beginBatch_of_taken
  endPosting_failed_of_taken)

/-! ### Markers (R128, R129) -/

theorem staged_nil (i : Ic) : staged [] i = i := by simp [staged]

/-- Markers staged one behind another are those staged together. -/
theorem staged_append (ms ns : List Item) (i : Ic) : staged ns (staged ms i) = staged (ms ++ ns) i := by
  have free : (staged ms i).free = i.free - ms.length := by
    simp only [staged, Ic.free, List.length_append, List.length_take]
    omega
  have places : ms.take i.free ++ ns.take (i.free - ms.length) = (ms ++ ns).take i.free := by rw [List.take_append]
  have count : (ms ++ ns).length - i.free = (ms.length - i.free) + (ns.length - (i.free - ms.length)) := by
    rw [List.length_append]
    omega
  rw [staged, free]
  simp only [staged, List.append_assoc, places, count, BitVec.ofNat_add, BitVec.add_assoc]

/-- A marker is staged, or dropped and counted, and beside staging the dropped word alone is touched. -/
theorem stageMarker_eq (kind : ItemKind) (position : Byte) (detail : W16) (d : Dev) :
    ∃ p, d.stageMarker kind position detail = { d with ic := staged [marker d kind position detail] d.ic, pub := p } := by
  unfold Dev.stageMarker
  by_cases full : d.ic.free = 0
  · exact ⟨_, by rw [if_pos full]; simp only [staged, full, List.take_zero, List.append_nil]; rfl⟩
  · refine ⟨d.pub, ?_⟩
    obtain ⟨n, places⟩ := Nat.exists_eq_succ_of_ne_zero full
    rw [if_neg full]
    simp [staged, places, marker]

/-! ### An entry that goes ACTIVE (R7, R61, R87) -/

/-- NODE_ADDED, with the kind, of a node that has not been announced. -/
def addedMarkers (k : Pos) (d : Dev) : List Item :=
  if (d.entry k).announced then [] else [marker d .nodeAdded (posByte k) ((d.entry k).kind.code.zeroExtend 16)]

theorem table_set_set (t : Per6 Entry) (k : Pos) (x y : Entry) : (t.set k x).set k y = t.set k y := by cases k <;> rfl

theorem announce_eq (k : Pos) (d : Dev) : ∃ p, d.announce k = { d with
    ic := staged (addedMarkers k d) d.ic, pub := p
    cm := { d.cm with table := d.cm.table.set k { d.entry k with announced := true, returned := false } } } := by
  unfold Dev.announce addedMarkers
  by_cases announced : (d.entry k).announced = true
  · simp only [announced, if_true, staged_nil]
    exact ⟨d.pub, by rw [← announced]; rfl⟩
  · obtain ⟨p, h⟩ := stageMarker_eq .nodeAdded (posByte k) ((d.entry k).kind.code.zeroExtend 16) d
    simp only [announced, h]
    exact ⟨p, by simp [Dev.onEntry, Dev.entry, Per6.modify, table_set_set]⟩

/-- The entry has gone ACTIVE, and nothing has followed yet. -/
def goneActive (k : Pos) (d : Dev) : Dev := d.onEntry k fun e => { e with state := .active }

theorem addedMarkers_goneActive (k : Pos) (d : Dev) : addedMarkers k (goneActive k d) = addedMarkers k d := by
  have entry : (goneActive k d).entry k = { d.entry k with state := .active } := Per6.get_set_same _ _ _
  rw [addedMarkers, entry]
  rfl

/-- The cradle's entry in BRINGUP takes the dock to DOCKED, DOCK staged, and discovery waits at the frontier. -/
def cradleDocked (d : Dev) : Dev :=
  ((d.setDock .docked).stageMarker .dock 0 0xFFFF).enterWaiting.onSc fun s => { s with announced := true }

theorem cradleDocked_eq {d : Dev} (bringup : d.sc.dock = .bringup) : ∃ p, cradleDocked d = { d with
    ic := staged [marker d .dock 0 0xFFFF] d.ic, pub := p, xp := bumped .dock d.xp
    sc := { d.sc with dock := .docked, announced := true }
    cm := { d.cm with discovery := .waiting, isRetry := false, offWait := false, codeRead := none } } := by
  have docked : d.setDock .docked = (({ d with
      sc := { d.sc with dock := .docked }, pub := { d.pub with dockState := true } } : Dev).bump .dock) :=
    if_neg (by rw [bringup]; decide)
  rw [cradleDocked, docked, bump_eq]
  obtain ⟨p, h⟩ := stageMarker_eq .dock 0 0xFFFF { d with
    sc := { d.sc with dock := .docked }, xp := bumped .dock d.xp
    pub := { d.pub with dockState := true, counters := d.pub.counters.set .dock true } }
  exact ⟨p, by rw [h]; rfl⟩

/-- A posting that waited for its target is validated again, and nothing but the Display Transfer Unit is touched (R149). -/
theorem revalidatePosting_only (k : Pos) (d : Dev) : ∃ t, d.revalidatePosting k = { d with dtu := t } := by
  unfold Dev.revalidatePosting
  cases taken : d.dtu.posting with
  | none => exact ⟨d.dtu, rfl⟩
  | some p =>
    dsimp only
    split
    · exact ⟨d.dtu, rfl⟩
    · split
      · exact ⟨_, endPosting_failed_of_taken taken _⟩
      · refine ⟨_, Eq.trans ?_ (beginBatch_of_taken taken p.batch)⟩
        simp only [Dev.restartBatch, taken]

/-- CameActive of the part at the end of the step. -/
theorem cameActive_settled {k : Pos} {s own d : Dev} (h : CameActive k s own) (settled : Settled own d) : CameActive k s d := by
  have entry (j : Pos) : d.entry j = own.entry j := by rw [Dev.entry, settled.cm]; rfl
  have discovery : d.cm.discovery = own.cm.discovery := by rw [settled.cm]
  have counters : d.xp.counters = own.xp.counters := by rw [settled.xp]
  unfold CameActive Staged at *
  rw [entry, settled.sc, discovery, counters, settled.ic]
  simpa only [entry] using h

/-- The entry as it goes ACTIVE: announced, and no longer a returned one. -/
def activeEntry (e : Entry) : Entry := { e with state := .active, returned := false, announced := true }

theorem enterActive_eq (k : Pos) (d : Dev) : d.enterActive k =
    ((if k = .p1 ∧ d.sc.dock = .bringup ∧ d.sc.undock = none then cradleDocked (goneActive k d) else goneActive k d).announce
      k).revalidatePosting k := rfl

theorem enterActive_of_cradle {d : Dev} (bringup : d.sc.dock = .bringup) (undock : d.sc.undock = none) :
    ∃ p t, d.enterActive .p1 = { d with
      ic := staged (marker d .dock 0 0xFFFF :: addedMarkers .p1 d) d.ic, pub := p, dtu := t, xp := bumped .dock d.xp
      sc := { d.sc with dock := .docked, announced := true }
      cm := { d.cm with
        table := d.cm.table.set .p1 (activeEntry (d.entry .p1))
        discovery := .waiting, isRetry := false, offWait := false, codeRead := none } } := by
  obtain ⟨q, docked⟩ := cradleDocked_eq (d := goneActive .p1 d) bringup
  obtain ⟨p, announced⟩ := announce_eq .p1 (cradleDocked (goneActive .p1 d))
  obtain ⟨t, revalidated⟩ := revalidatePosting_only .p1 ((cradleDocked (goneActive .p1 d)).announce .p1)
  have markers : addedMarkers .p1 (cradleDocked (goneActive .p1 d)) = addedMarkers .p1 d := by
    rw [docked]
    exact addedMarkers_goneActive .p1 d
  refine ⟨p, t, ?_⟩
  rw [enterActive_eq, if_pos ⟨rfl, bringup, undock⟩, revalidated, announced, markers, docked]
  dsimp only
  rw [staged_append]
  rfl

theorem enterActive_of_other {k : Pos} {d : Dev} (other : ¬ (k = .p1 ∧ d.sc.dock = .bringup ∧ d.sc.undock = none)) :
    ∃ p t, d.enterActive k = { d with
      ic := staged (addedMarkers k d) d.ic, pub := p, dtu := t
      cm := { d.cm with table := d.cm.table.set k (activeEntry (d.entry k)) } } := by
  obtain ⟨p, announced⟩ := announce_eq k (goneActive k d)
  obtain ⟨t, revalidated⟩ := revalidatePosting_only k ((goneActive k d).announce k)
  have entry : (goneActive k d).entry k = { d.entry k with state := .active } := Per6.get_set_same _ _ _
  have table (e : Entry) : (goneActive k d).cm.table.set k e = d.cm.table.set k e := table_set_set _ _ _ _
  refine ⟨p, t, ?_⟩
  rw [enterActive_eq, if_neg other, revalidated, announced, addedMarkers_goneActive, entry, table]
  rfl

/-- Configuring is complete: what CameActive says, and the Power Contract Unit and host memory as they were. -/
theorem enterActive_cameActive (k : Pos) (d : Dev) :
    CameActive k d (d.enterActive k) ∧ (d.enterActive k).pcu = d.pcu ∧ (d.enterActive k).mem = d.mem := by
  by_cases cradle : k = .p1 ∧ d.sc.dock = .bringup ∧ d.sc.undock = none
  · obtain ⟨rfl, bringup, undock⟩ := cradle
    obtain ⟨p, t, active⟩ := enterActive_of_cradle bringup undock
    rw [active]
    refine ⟨⟨by simp [Dev.entry, activeEntry], fun j other => Per6.get_set_other _ _ other, fun added hadded =>
      ⟨fun _ _ _ => ?_, fun away => ?_⟩⟩, rfl, rfl⟩
    · rw [hadded]
      exact ⟨rfl, rfl, by simp [bumped], rfl, rfl⟩
    · simp [bringup, undock] at away
  · obtain ⟨p, t, active⟩ := enterActive_of_other cradle
    rw [active]
    refine ⟨⟨by simp [Dev.entry, activeEntry], fun j other => Per6.get_set_other _ _ other, fun added hadded =>
      ⟨fun first bringup undock => ?_, fun _ => ?_⟩⟩, rfl, rfl⟩
    · exact absurd ⟨first, bringup, undock⟩ cradle
    · rw [hadded]
      exact ⟨rfl, rfl, rfl, rfl⟩

/-! ### The result of a STATUS_BLOCK (R61, R165) -/

/-- The block is what the position holds, and the block as sent. -/
def blockDelivered (k : Pos) (b : W64) (d : Dev) : Dev :=
  { d with pcu := { d.pcu with delivered := d.pcu.delivered.set k (some b), blockSent := b } }

/-- The first block of a configuring has been taken. -/
def firstBlockDone (k : Pos) (d : Dev) : Dev :=
  { d with cm := { d.cm with configuring := d.cm.configuring.modify k fun g => { g with blockDone := true } } }

/-- The current block is not sent to a position that holds it. -/
theorem sendBlock_of_held {d : Dev} {k : Pos} (held : d.pcu.delivered.get k = some d.currentBlock) : d.sendBlock k = d := by
  simp [Dev.sendBlock, Dev.wantsBlock, held]

theorem blockResult_done_of_active {d : Dev} {k : Pos} (active : (d.entry k).state = .active) :
    d.blockResult k d.currentBlock .done = blockDelivered k d.currentBlock d := by
  have sent : (blockDelivered k d.currentBlock d).sendBlock k = blockDelivered k d.currentBlock d :=
    sendBlock_of_held (Per6.get_set_same _ _ _)
  have checked : (blockDelivered k d.currentBlock d).configuringCheck k = blockDelivered k d.currentBlock d :=
    if_neg fun c => by rw [show (blockDelivered k d.currentBlock d).entry k = d.entry k from rfl, active] at c; cases c.1
  have bringIn : ((d.entry k).state == .configuring) = false := by rw [active]; rfl
  simp only [Dev.blockResult, bringIn, Bool.false_eq_true, if_false]
  show ((blockDelivered k d.currentBlock d).sendBlock k).configuringCheck k = _
  rw [sent, checked]

/-- The last of the three steps of a configuring (R61). -/
theorem blockResult_done_of_configuring {d : Dev} {k : Pos} (configuring : (d.entry k).state = .configuring)
    (session : (d.cm.configuring.get k).sessionDone = true) (applied : (d.cm.configuring.get k).applyDone = true) :
    d.blockResult k d.currentBlock .done = (firstBlockDone k (blockDelivered k d.currentBlock d)).enterActive k := by
  have sent : (firstBlockDone k (blockDelivered k d.currentBlock d)).sendBlock k =
      firstBlockDone k (blockDelivered k d.currentBlock d) := sendBlock_of_held (Per6.get_set_same _ _ _)
  have bringIn : ((d.entry k).state == .configuring) = true := by rw [configuring]; rfl
  simp only [Dev.blockResult, bringIn, if_true]
  show ((firstBlockDone k (blockDelivered k d.currentBlock d)).sendBlock k).configuringCheck k = _
  rw [sent]
  have progress : (firstBlockDone k (blockDelivered k d.currentBlock d)).cm.configuring.get k =
      { d.cm.configuring.get k with blockDone := true } := Per6.get_set_same _ _ _
  exact if_pos ⟨configuring, by rw [progress]; exact session, by rw [progress]; exact applied, .inr (by rw [progress])⟩

theorem blockDone_of_head {d : Dev} {r : CtrlResult} {rest : List CtrlResult} {b : W64} (head : d.le.results = r :: rest)
    (payload : r.payload = .statusBlock b) (staying : (d.entry r.pos).releasing = false) :
    d.withResult (fun r => r.payload.isStatusBlock) Dev.blockDone = (resultTaken rest d).blockResult r.pos b r.code := by
  rw [withResult_of_head head (by rw [payload]; rfl), resultCode_of_not_releasing staying, Dev.blockDone, payload]

theorem exec_statusBlockResult (s : State) : exec .statusBlockResult s =
    .next { s with dev := Dev.settle s.dev (s.dev.withResult (fun r => r.payload.isStatusBlock) Dev.blockDone) } := rfl

/-- Settles O33: the block delivered is the current one, so no other is sent, and the check of configuring finds its last step
ended. -/
theorem statusBlockResultDone : Obligations.StatusBlockResultDone := by
  unfold Obligations.StatusBlockResultDone
  intro s r rest head payload done staying
  have result := blockDone_of_head head payload staying
  have settled := settle_settled s.dev (s.dev.withResult (fun r => r.payload.isStatusBlock) Dev.blockDone)
  have block : (resultTaken rest s.dev).currentBlock = s.dev.currentBlock := rfl
  rw [done, ← block] at result
  refine ⟨fun active => ⟨_, exec_statusBlockResult s, ?active⟩,
    fun configuring session applied => ⟨_, exec_statusBlockResult s, ?configuring⟩⟩
  case active =>
    rw [result, blockResult_done_of_active (d := resultTaken rest s.dev) active] at settled ⊢
    exact settled
  case configuring =>
    rw [result, blockResult_done_of_configuring (d := resultTaken rest s.dev) configuring session applied] at settled ⊢
    obtain ⟨came, pcu, mem⟩ := enterActive_cameActive r.pos
      (firstBlockDone r.pos (blockDelivered r.pos (resultTaken rest s.dev).currentBlock (resultTaken rest s.dev)))
    refine ⟨cameActive_settled came settled, ?_, ?_, settled.mem.trans mem⟩
    · rw [settled.pcu, pcu]
      exact Per6.get_set_same _ _ _
    · rw [settled.pcu, pcu]
      rfl

end Sys2Proof.Proofs.StatusBlock
end

section
/-! SUPPORT. A stable level taken, what it does to the inputs, and the press of a RELEASE line (R170, R161, R97, R98): O49. -/
namespace Sys2Proof.Proofs.SideLines

open Sys2Proof.Machine Sys2Proof.Safety
open Sys2Proof.Proofs.InputJournal (bump_eq)
open Sys2Proof.Proofs.DisplayUpdates (endPosting_failed_of_taken)

/-! ### A stable level, and the inputs that follow it (R170, R161) -/

/-- The lines as one of them takes a stable level. -/
def levelTaken (n : Line) (v : StableLevel) (u : Slu) : Slu :=
  { u with lines := u.lines.set n { u.lines.get n with stable := v } }

/-- Motion inhibit and crank as the lines have them. -/
def inputsFollow (u : Slu) : Slu := { u with motion := u.motionOf, crank := u.crankOf }

theorem setStable_of_moved {d : Dev} {n : Line} {v : StableLevel} (moved : (d.slu.lines.get n).stable ≠ v) :
    d.setStable n v = { d with
      slu := levelTaken n v d.slu
      xp := bumped .lines d.xp
      pub := { d.pub with counters := d.pub.counters.set .lines true } } := by
  rw [Dev.setStable, if_neg moved, bump_eq]
  rfl

/-- The brace is the Power Contract Unit's alone (R161). -/
theorem braceCheck_only (d : Dev) : ∃ p, d.braceCheck = { d with pcu := p } := by
  unfold Dev.braceCheck
  by_cases condition : d.braceCondition = true
  · by_cases braced : d.pcu.braced = true
    · exact ⟨_, (if_pos condition).trans (if_pos braced)⟩
    · exact ⟨_, (if_pos condition).trans (if_neg braced)⟩
  · exact ⟨d.pcu, if_neg condition⟩

theorem lineEffects_only (d : Dev) : ∃ p, d.lineEffects = { d with slu := inputsFollow d.slu, pcu := p } :=
  braceCheck_only { d with slu := inputsFollow d.slu }

/-- What a stable level that changes touches: the Side Line Unit, LINES and its word, and the Power Contract Unit. -/
theorem levelEffects_of_moved {d : Dev} {n : Line} {v : StableLevel} (moved : (d.slu.lines.get n).stable ≠ v) :
    ∃ p, (d.setStable n v).lineEffects = { d with
      slu := inputsFollow (levelTaken n v d.slu)
      xp := bumped .lines d.xp
      pub := { d.pub with counters := d.pub.counters.set .lines true }
      pcu := p } := by
  obtain ⟨p, followed⟩ := lineEffects_only (d.setStable n v)
  exact ⟨p, by rw [followed, setStable_of_moved moved]⟩

/-! ### The start of the release sequence (R97, R98) -/

theorem send_only (k : Pos) (sub : Block) (m : Payload) (d : Dev) : ∃ l, d.send k sub m = { d with le := l } := by
  unfold Dev.send Dev.submit
  by_cases gone : d.goneAtOnce k (Msg.new sub m) = true
  · rw [if_pos gone]
    exact ⟨_, rfl⟩
  · rw [if_neg gone]
    by_cases full : queueFull (d.queue k) (Msg.new sub m) = true
    · rw [if_pos full]
      exact ⟨_, rfl⟩
    · rw [if_neg full]
      exact ⟨_, rfl⟩

theorem failPosting_only (reason : UpdateReason) (d : Dev) : ∃ l t, d.failPosting reason = { d with le := l, dtu := t } := by
  cases taken : d.dtu.posting with
  | none => exact ⟨d.le, d.dtu, by rw [Dev.failPosting, taken]⟩
  | some p =>
    obtain ⟨l, sent⟩ := send_only p.target .dtu .discard (d.endPosting .failed reason)
    have failed : d.failPosting reason = (d.endPosting .failed reason).send p.target .dtu .discard := by
      rw [Dev.failPosting, taken]
      rfl
    exact ⟨l, _, by rw [failed, sent, endPosting_failed_of_taken taken]⟩

theorem abandonPushes_only (d : Dev) : ∃ l i, d.abandonPushes = { d with le := l, ir := i } := ⟨_, _, rfl⟩

theorem stopDiscovery_only (d : Dev) : ∃ c, d.stopDiscovery = { d with cm := c } := by
  unfold Dev.stopDiscovery Dev.abandonLocate
  by_cases idle : d.cm.locate.step = .idle
  · rw [if_pos idle]
    exact ⟨_, rfl⟩
  · rw [if_neg idle]
    exact ⟨_, rfl⟩

theorem setDock_only (v : DockState) (d : Dev) :
    ∃ x q, d.setDock v = { d with sc := { d.sc with dock := v }, xp := x, pub := q } := by
  unfold Dev.setDock
  by_cases same : d.sc.dock = v
  · subst same
    exact ⟨d.xp, d.pub, if_pos rfl⟩
  · rw [if_neg same, bump_eq]
    exact ⟨_, _, rfl⟩

/-- The Session Controller as the sequence starts, at its drain, with no return pass left. -/
def sequenceStarted (forDisable : Bool) (c : Sc) : Sc :=
  { c with
    pass := none
    sequence := some { step := .drain, timer := 0, empty := Per6.const false, forDisable := forDisable } }

/-- The part as the sequence starts, with its posting and its pushes still there. -/
def drainBegun (forDisable : Bool) (d : Dev) : Dev :=
  ((d.withdrawUnsent .p1 Msg.isScSession).stopDiscovery.setDock .releasing).onSc (sequenceStarted forDisable)

theorem startSequence_eq (forDisable : Bool) (d : Dev) :
    d.startSequence forDisable = ((drainBegun forDisable d).failPosting .released).abandonPushes := rfl

theorem drainBegun_only (forDisable : Bool) (d : Dev) : ∃ x q l c, drainBegun forDisable d = { d with
    sc := sequenceStarted forDisable { d.sc with dock := .releasing }, xp := x, pub := q, le := l, cm := c } := by
  obtain ⟨c, stopped⟩ := stopDiscovery_only (d.withdrawUnsent .p1 Msg.isScSession)
  obtain ⟨x, q, releasing⟩ := setDock_only .releasing (d.withdrawUnsent .p1 Msg.isScSession).stopDiscovery
  exact ⟨x, q, _, c, by rw [drainBegun, releasing, stopped]; rfl⟩

/-- The start of the release sequence leaves side lines, input, power, configuration and host memory as they were. -/
theorem startSequence_only (forDisable : Bool) (d : Dev) : ∃ x q l c i t, d.startSequence forDisable = { d with
    sc := sequenceStarted forDisable { d.sc with dock := .releasing }
    xp := x, pub := q, le := l, cm := c, ir := i, dtu := t } := by
  obtain ⟨x, q, _, c, begun⟩ := drainBegun_only forDisable d
  obtain ⟨_, t, failed⟩ := failPosting_only .released (drainBegun forDisable d)
  obtain ⟨l, i, abandoned⟩ := abandonPushes_only ((drainBegun forDisable d).failPosting .released)
  exact ⟨x, q, l, c, i, t, by rw [startSequence_eq, abandoned, failed, begun]⟩

/-! ### LINE_DEBOUNCE (R170) -/

theorem exec_lineDebounce (n : Line) (s : State) :
    exec (.lineDebounce n) s = .next { s with dev := Dev.settle s.dev (s.dev.lineDebounce n) } := rfl

theorem lineDebounce_of_due {d : Dev} {n : Line} {l : LineState} (line : l = d.slu.lines.get n) (sampled : l.sampled = true)
    (stood : 20 ≤ l.run) (moved : l.target ≠ l.stable) : d.lineDebounce n =
      if l.fn = .release ∧ l.stable = .inactive ∧ l.target = .active then (d.setStable n l.target).lineEffects.releasePress
      else (d.setStable n l.target).lineEffects := by
  subst line
  exact if_pos ⟨sampled, stood, moved⟩

theorem releasePress_of_docked {d : Dev} (docked : d.sc.dock = .docked) (undock : d.sc.undock = none) :
    d.releasePress = d.startSequence false := if_pos ⟨docked, undock⟩

/-- Settles O49: a stable level that changes acts on its inputs, and that of a pressed RELEASE line starts the release sequence,
which leaves the lines. -/
theorem lineDebounceResult : Obligations.LineDebounceResult := by
  unfold Obligations.LineDebounceResult
  intro s n l line sampled stood moved
  have debounced := lineDebounce_of_due line sampled stood moved
  have settled := settle_settled s.dev (s.dev.lineDebounce n)
  obtain ⟨p, taken⟩ := levelEffects_of_moved (d := s.dev) (n := n) (v := l.target) (line ▸ moved.symm)
  refine ⟨fun other => ⟨_, exec_lineDebounce n s, ?input⟩,
    fun release inactive active docked undock => ⟨_, exec_lineDebounce n s, ?press⟩⟩
  case input =>
    rw [if_neg fun press => other press.1, taken] at debounced
    rw [debounced] at settled ⊢
    refine ⟨?lines, ?motion, ?crank, settled.xp, settled.le, settled.sc, ?table, settled.mem⟩
    case lines => rw [settled.slu, line]; rfl
    case motion => rw [settled.slu]; rfl
    case crank => rw [settled.slu]; rfl
    case table => rw [settled.cm]
  case press =>
    obtain ⟨x, q, m, c, i, t, started⟩ := startSequence_only false (s.dev.setStable n l.target).lineEffects
    have pressed : (s.dev.setStable n l.target).lineEffects.releasePress =
        (s.dev.setStable n l.target).lineEffects.startSequence false :=
      releasePress_of_docked (by rw [taken]; exact docked) (by rw [taken]; exact undock)
    rw [if_pos ⟨release, inactive, active⟩, pressed, started, taken] at debounced
    rw [debounced] at settled ⊢
    refine ⟨?dock, ?stable, settled.mem⟩
    case dock => rw [settled.sc]; rfl
    case stable => rw [settled.slu, ← active]; exact congrArg LineState.stable (Per4.get_set_same _ _ _)

end Sys2Proof.Proofs.SideLines
end

section
/-! SUPPORT. The queue of commands: a step takes its front, an empty one idles, and a command leaves it: O1, O2, O3. -/
namespace Sys2Proof.Proofs.CommandQueue

open Sys2Proof.Machine

theorem step_cons (c : Instr) (rest : List Instr) (s : State) :
    step { s with pending := c :: rest } = exec c { s with pending := rest } := rfl

theorem step_of_empty {s : State} (empty : s.pending = []) : step s = .next s := by
  unfold step
  rw [empty]

/-- A command changes the part alone, or with what the change brings about in the same superframe, or with the requests that the
requesters then offer. -/
theorem exec_runs (c : Instr) : ∃ f : Dev → Dev,
    (∀ s, exec c s = s.run f) ∨ (∀ s, exec c s = s.runSettled f) ∨ ∀ s, exec c s = s.runOffered f := by
  cases c
  case superframe | errorWindowEnd | discardResult | resumeTimer | frontierTimer | dockSense | bringupProbe | holdTick |
      stallRetry | enable | layoutVersionRead | disable | finalDrainEnd | reset | noticeOn | noticeMask | nudge |
      registerWrite | powerOnReset | msiEnable =>
    exact ⟨_, .inl fun _ => rfl⟩
  case queueReoffer | answer | lossReport | interruptionReport | probeResult | resumeResult | readResult | setResult |
      segmentResult | supplyResult | statusBlockResult | releaseResult | releaseComplete | lostExpiry | discoveryStep |
      observationEnd | settlingEnd | locateObservationEnd | senseRunReached | holdOverExpiry | inputDrainEnd | releasedTimer |
      intentReadComplete | lineDebounce | contractTimeout | braceEnd =>
    exact ⟨_, .inr (.inl fun _ => rfl)⟩
  case commitResult | noCradle | scan | rederive | attentionStale | cursorReadComplete | pixelReadComplete | goBack |
      noProgress | outcomeWriteComplete | takenCountRead | journalEntryWrite | writeCountWrite | entrySectionWrite |
      appliedSectionWrite | faultTotalWrite | windowAccessGrant | windowStall | stallRetryComplete | startingComplete |
      sequenceEnded =>
    exact ⟨_, .inr (.inr fun _ => rfl)⟩

/-- Settles O1: the front of the queue is what a step matches on. -/
theorem stepRunsFrontCommand : Obligations.StepRunsFrontCommand := by
  unfold Obligations.StepRunsFrontCommand
  exact step_cons

/-- Settles O2: with the queue empty a step has nothing to run. -/
theorem emptyQueueIdles : Obligations.EmptyQueueIdles := by
  unfold Obligations.EmptyQueueIdles
  exact fun _ => step_of_empty

/-- Settles O3: in each of its three ways a command runs as a change of the part, which is total and leaves the queue. -/
theorem everyCommandAnswersNext : Obligations.EveryCommandAnswersNext := by
  unfold Obligations.EveryCommandAnswersNext
  intro c s
  obtain ⟨f, alone | settled | offered⟩ := exec_runs c
  · exact ⟨_, (alone s).trans (State.run_eq f s)⟩
  · exact ⟨_, (settled s).trans (State.runSettled_eq f s)⟩
  · exact ⟨_, (offered s).trans (State.runOffered_eq f s)⟩

end Sys2Proof.Proofs.CommandQueue
end

section
/-! SUPPORT. The bits of PART_ID, CONTROL and STATUS, the write of CONTROL, the base that STARTING latches (R173, R174, R183): O8. -/
namespace Sys2Proof.Proofs.RegisterFields

open Sys2Proof.Machine Sys2Proof.Safety
open Sys2Proof.Proofs.InputJournal (exec_enable)

/-! ### Fields of a word built as a sum (R183) -/

theorem getLsbD_ofNat_of_digit {n i : Nat} {b : Bool} (inside : i < 32) (digit : n / 2 ^ i % 2 = b.toNat) :
    (BitVec.ofNat 32 n).getLsbD i = b := by
  rw [BitVec.getLsbD_ofNat, Nat.testBit_eq_decide_div_mod_eq, digit]
  cases b <;> simp [inside]

theorem extractLsb'_ofNat_of_digits {n start len v : Nat} (inside : start + len ≤ 32)
    (digits : n / 2 ^ start % 2 ^ len = v) : (BitVec.ofNat 32 n).extractLsb' start len = BitVec.ofNat len v := by
  apply BitVec.eq_of_toNat_eq
  have wide : 2 ^ 32 = 2 ^ start * 2 ^ (32 - start) := by rw [← Nat.pow_add]; congr 1; omega
  have fits : 2 ^ len ∣ 2 ^ (32 - start) := Nat.pow_dvd_pow 2 (by omega)
  rw [BitVec.extractLsb'_toNat, BitVec.toNat_ofNat, BitVec.toNat_ofNat, Nat.shiftRight_eq_div_pow, wide,
    Nat.mod_mul_right_div_self, Nat.mod_mod_of_dvd _ fits, ← digits, Nat.mod_mod]

theorem partCode_lt (p : PartState) : p.code < 4 := by cases p <;> decide

theorem dockCode_lt (s : DockState) : s.code < 8 := by cases s <;> decide

/-! ### What a read returns (R173) -/

theorem readReg_partId (d : Dev) : d.readReg 0x000 = partId := rfl

theorem readReg_control (d : Dev) : d.readReg 0x004 = d.control := rfl

theorem readReg_status (d : Dev) : d.readReg 0x008 = d.status := rfl

theorem control_fields (d : Dev) : d.control.getLsbD 0 = d.xp.enable ∧ d.control.getLsbD 2 = d.xp.noticeOn ∧
    d.control.getLsbD 3 = d.xp.noticeMask := by
  have := Bool.toNat_le d.xp.enable
  have := Bool.toNat_le d.xp.noticeOn
  have := Bool.toNat_le d.xp.noticeMask
  unfold Dev.control
  exact ⟨getLsbD_ofNat_of_digit (by omega) (by omega), getLsbD_ofNat_of_digit (by omega) (by omega),
    getLsbD_ofNat_of_digit (by omega) (by omega)⟩

theorem status_fields (d : Dev) : d.status.extractLsb' 0 2 = BitVec.ofNat 2 d.xp.part.code ∧
    d.status.getLsbD 4 = d.xp.windowBad ∧ d.status.getLsbD 5 = d.xp.windowStall ∧
    d.status.getLsbD 6 = d.xp.noticePending ∧ d.status.extractLsb' 8 3 = BitVec.ofNat 3 d.sc.dock.code := by
  have := partCode_lt d.xp.part
  have := dockCode_lt d.sc.dock
  have := Bool.toNat_le d.xp.windowBad
  have := Bool.toNat_le d.xp.windowStall
  have := Bool.toNat_le d.xp.noticePending
  unfold Dev.status
  exact ⟨extractLsb'_ofNat_of_digits (by omega) (by omega), getLsbD_ofNat_of_digit (by omega) (by omega),
    getLsbD_ofNat_of_digit (by omega) (by omega), getLsbD_ofNat_of_digit (by omega) (by omega),
    extractLsb'_ofNat_of_digits (by omega) (by omega)⟩

/-! ### STARTING, and the base it latches (R174) -/

/-- The base that WINDOW_HIGH and WINDOW_LOW hold. -/
def windowBase (x : Xp) : W64 := x.windowHigh ++ x.windowLow

theorem windowBase_halves (x : Xp) :
    (windowBase x).extractLsb' 0 32 = x.windowLow ∧ (windowBase x).extractLsb' 32 32 = x.windowHigh := by
  unfold windowBase
  exact ⟨BitVec.extractLsb'_append_eq_right, BitVec.extractLsb'_append_eq_left⟩

/-- The Exchange Port as STARTING is entered, before the base is checked. -/
def startingEntered (x : Xp) : Xp :=
  { x with
    part := .starting, windowBad := false, windowStall := false, base := some (windowBase x), stallArea := .none
    stallAreaOwed := false, stallAreaLater := false, layoutOffered := true, initial := none
    offered := PerRequester.const none, engine := none }

/-- STARTING is entered with the base latched, or the base is bad and the part is in DISABLED without one. -/
theorem enterStarting_cases (d : Dev) :
    d.enterStarting.xp = startingEntered d.xp ∨
      d.enterStarting.xp = { startingEntered d.xp with
        part := .disabled, windowBad := true, enable := false, layoutOffered := false, base := none } := by
  unfold Dev.enterStarting
  dsimp only
  split
  · exact .inr rfl
  · exact .inl rfl

theorem enableOn_enters_of_disabled {d : Dev} (disabled : d.xp.part = .disabled) :
    d.enableOn = (d.onXp fun x => { x with enable := true }).enterStarting := if_pos disabled

theorem enableOn_noted_of_not_disabled {d : Dev} (other : d.xp.part ≠ .disabled) :
    d.enableOn = d.onXp fun x => { x with enable := true } := if_neg other

theorem base_of_enableOn {d : Dev} {b : W64} (disabled : d.xp.part = .disabled) (latched : d.enableOn.xp.base = some b) :
    b = windowBase d.xp := by
  rw [enableOn_enters_of_disabled disabled] at latched
  rcases enterStarting_cases (d.onXp fun x => { x with enable := true }) with entered | failed
  · rw [entered] at latched
    exact (Option.some.inj latched).symm
  · rw [failed] at latched
    contradiction

/-! ### The write of CONTROL (R173, R174) -/

/-- CONTROL's two notice fields stand as given. -/
structure NoticeFields (on mask : Bool) (x : Xp) : Prop where
  noticeOn : x.noticeOn = on
  noticeMask : x.noticeMask = mask

/-- ENABLE written 1 leaves the notice fields, and takes unless the base is bad. -/
theorem enableOn_control {on mask : Bool} {d : Dev} (notice : NoticeFields on mask d.xp) :
    NoticeFields on mask d.enableOn.xp ∧ (d.enableOn.xp.windowBad = true ∨ d.enableOn.xp.enable = true) := by
  by_cases disabled : d.xp.part = .disabled
  · rw [enableOn_enters_of_disabled disabled]
    rcases enterStarting_cases (d.onXp fun x => { x with enable := true }) with entered | failed
    · rw [entered]
      exact ⟨⟨notice.noticeOn, notice.noticeMask⟩, .inr rfl⟩
    · rw [failed]
      exact ⟨⟨notice.noticeOn, notice.noticeMask⟩, .inl rfl⟩
  · rw [enableOn_noted_of_not_disabled disabled]
    exact ⟨⟨notice.noticeOn, notice.noticeMask⟩, .inr rfl⟩

theorem enableOff_control {on mask : Bool} {d : Dev} (notice : NoticeFields on mask d.xp) :
    NoticeFields on mask d.enableOff.xp ∧ d.enableOff.xp.enable = false := by
  unfold Dev.enableOff
  dsimp only
  split
  case h_1 | h_2 | h_4 => exact ⟨⟨notice.noticeOn, notice.noticeMask⟩, rfl⟩
  case h_3 =>
    have kept := disableRequest_inside (Inside.refl ((d.onXp fun x => { x with enable := false }).onXp fun x =>
      { x with part := .stopping }))
    exact ⟨⟨kept.noticeOn.trans notice.noticeOn, kept.noticeMask.trans notice.noticeMask⟩, kept.enable⟩

/-- What follows ENABLE written 0 leaves CONTROL as it stands. -/
theorem disable_control {on mask : Bool} {d : Dev} (notice : NoticeFields on mask d.xp) :
    NoticeFields on mask d.disable.xp ∧ d.disable.xp.enable = false := by
  obtain ⟨⟨noticeOn, noticeMask⟩, off⟩ := enableOff_control notice
  have settled : d.disable.xp = { d.enableOff.xp with offered := d.disable.xp.offered } :=
    (settle_settled d d.enableOff).xp
  rw [settled]
  exact ⟨⟨noticeOn, noticeMask⟩, off⟩

theorem writeControl_of_reset {v : W32} (reset : v.getLsbD 1 = true) (d : Dev) : d.writeControl v = d.functionReset :=
  if_pos reset

/-- The part with the notice fields that a write of CONTROL gives it. -/
def noticeWritten (v : W32) (d : Dev) : Dev := (d.setNoticeOn (v.getLsbD 2)).setNoticeMask (v.getLsbD 3)

theorem noticeWritten_fields (v : W32) (d : Dev) : NoticeFields (v.getLsbD 2) (v.getLsbD 3) (noticeWritten v d).xp :=
  ⟨rfl, rfl⟩

theorem writeControl_of_no_reset {v : W32} (reset : v.getLsbD 1 = false) (d : Dev) :
    d.writeControl v = if v.getLsbD 0 then (noticeWritten v d).enableOn else (noticeWritten v d).disable := by
  unfold Dev.writeControl
  rw [reset]
  rfl

/-- CONTROL after a write with RESET clear. -/
theorem writeControl_fields {v : W32} (reset : v.getLsbD 1 = false) (d : Dev) :
    NoticeFields (v.getLsbD 2) (v.getLsbD 3) (d.writeControl v).xp ∧
      (v.getLsbD 0 = false → (d.writeControl v).xp.enable = false) ∧
      (v.getLsbD 0 = true → (d.writeControl v).xp.windowBad = true ∨ (d.writeControl v).xp.enable = true) := by
  rw [writeControl_of_no_reset reset]
  cases v.getLsbD 0 with
  | true =>
    obtain ⟨notice, taken⟩ := enableOn_control (noticeWritten_fields v d)
    exact ⟨notice, nofun, fun _ => taken⟩
  | false =>
    obtain ⟨notice, off⟩ := disable_control (noticeWritten_fields v d)
    exact ⟨notice, fun _ => off, nofun⟩

theorem exec_controlWrite (v : W32) (s : State) :
    exec (.registerWrite 0x004 v) s = .next { s with dev := s.dev.writeControl v } := rfl

theorem exec_reset (s : State) : exec .reset s = .next { s with dev := s.dev.functionReset } := rfl

/-! ### NUDGE (R173) -/

theorem exec_nudge (v : W32) (s : State) : exec (.nudge v) s = .next { s with dev := s.dev.nudge } := rfl

theorem exec_nudgeWrite (v : W32) (s : State) :
    exec (.registerWrite 0x00C v) s = .next { s with dev := s.dev.nudge } := rfl

/-- Settles O8: CONTROL and STATUS are sums of digits at their bits, a write of CONTROL goes by RESET and then by ENABLE, and
the base is the two window registers side by side. -/
theorem registerFields : Obligations.RegisterFields := by
  unfold Obligations.RegisterFields
  refine ⟨?read, ?reset, ?control, ?nudge, ?base⟩
  case read =>
    intro d
    rw [readReg_partId, readReg_control, readReg_status]
    obtain ⟨enable, noticeOn, noticeMask⟩ := control_fields d
    exact ⟨rfl, rfl, rfl, enable, noticeOn, noticeMask, status_fields d⟩
  case reset =>
    intro s v reset
    rw [exec_controlWrite, exec_reset, writeControl_of_reset reset]
  case control =>
    intro s v reset
    obtain ⟨⟨noticeOn, noticeMask⟩, enable⟩ := writeControl_fields reset s.dev
    exact ⟨_, exec_controlWrite v s, noticeOn, noticeMask, enable⟩
  case nudge =>
    intro s v w
    rw [exec_nudge, exec_nudge, exec_nudgeWrite]
    exact ⟨rfl, rfl⟩
  case base =>
    intro s t b enabled disabled latched
    rw [exec_enable] at enabled
    cases enabled
    rw [base_of_enableOn disabled latched]
    exact windowBase_halves s.dev.xp

end Sys2Proof.Proofs.RegisterFields
end
